-- ==== Sys2Proof/Word.lean ====
section
/-! DEFINITION. The word types of the block and their plainest arithmetic (spec/00_scope.md R9, R13, R14). -/

namespace Sys2Proof

/-- One byte of memory (spec/20_memory.md R60). -/
abbrev Byte := BitVec 8

/-- A 32-bit lane of a vector register (spec/00_scope.md R9). -/
abbrev Lane := BitVec 32

/-- A 64-bit word: a register access, an address, a packing word (spec/00_scope.md R9, R12). -/
abbrev Word := BitVec 64

/-- The number of byte addresses, `2^64` (spec/00_scope.md R12). -/
def addrSpace : Nat := 2 ^ 64

/-- `ceil(a/b)` of spec/00_scope.md R13. -/
def ceilDiv (a b : Nat) : Nat := (a + b - 1) / b

end Sys2Proof
end

