-- ==== Sys2Proof/Config.lean ====
section
/-! DEFINITION. What is fixed for the machine, and the free values of the spec (spec/00_scope.md R9, R11, R17; spec/93_implementation_defined.md).
The platform's parameters (NWORK, the place of the register window) are arguments of the model and stand in `State.platform`. -/

namespace Sys2Proof.Config

/-- `K_MAX`, the largest predicate count of a shared scan (spec/00_scope.md R11). -/
def kMax : Nat := 1024

/-- `wordBits` (spec/00_scope.md R9). -/
def wordBits : Nat := 64

/-- `UNSPEC` (spec/00_scope.md R17): the byte that draw number `draw` leaves at an address. A free value; DESIGN CHOICE (notes/assumptions/5.md): nothing constrains it. -/
opaque unspec (draw addr : Nat) : Byte

/-- The match count of a SCAN whose contract does not hold (spec/93 U7, U8, U9): a free value. DESIGN CHOICE (notes/assumptions/6.md). -/
opaque unspecCount (draw : Nat) : BitVec 32

/-- Whether a PACK whose contract does not hold stops with `ERR_VALUE`: a free value. DESIGN CHOICE (notes/assumptions/6.md). -/
opaque unspecStops (draw : Nat) : Bool

/-- The index at which such a PACK stops (taken modulo `N`): a free value. DESIGN CHOICE (notes/assumptions/6.md). -/
opaque unspecIndex (draw : Nat) : Nat

end Sys2Proof.Config
end

