-- ==== Sys2Proof/Syntax.lean ====
section
/-! DEFINITION. The 24 commands (spec/30_encoding.md R107) and the fields of a command word (R101). -/

namespace Sys2Proof

/-- One constructor per legal command word; a command word holds no operand (spec/30_encoding.md R100, R107). -/
inductive Instr where
  | pack128 | pack256
  | maskgen128 | maskgen256
  | decodeS | decodeV128 | decodeV256 | decodeV128M | decodeV128A | decodeV128U | decodeV256V
  | scanS | scanV128 | scanV256 | scanV128I | scanV256I | scanV128U
  | shscanV128 | shscanV256 | shscanV128X | shscanV256X | shscanH4 | shscanH8 | shscanT
  deriving DecidableEq, Repr

/-- The operations of spec/30_encoding.md R102. -/
inductive Op where
  | pack | maskgen | decode | scan | shscan
  deriving DecidableEq, Repr

/-- The operation a command belongs to (spec/30_encoding.md R103). -/
def Instr.op : Instr → Op
  | .pack128 | .pack256 => .pack
  | .maskgen128 | .maskgen256 => .maskgen
  | .decodeS | .decodeV128 | .decodeV256 | .decodeV128M | .decodeV128A | .decodeV128U | .decodeV256V => .decode
  | .scanS | .scanV128 | .scanV256 | .scanV128I | .scanV256I | .scanV128U => .scan
  | .shscanV128 | .shscanV256 | .shscanV128X | .shscanV256X | .shscanH4 | .shscanH8 | .shscanT => .shscan

/-- The fields of a command word (spec/30_encoding.md R101), before any check. -/
structure CmdFields where
  op     : BitVec 4
  strat  : BitVec 4
  vw     : BitVec 1
  layout : BitVec 1
  zero   : BitVec 22
  deriving DecidableEq, Repr

end Sys2Proof
end

