-- ==== Sys2Proof/WellFormed.lean ====
section
/-! DEFINITION. Which command fields are legal: the five checks of spec/30_encoding.md R108. -/

namespace Sys2Proof

/-- OP is 1 to 5 (spec/30_encoding.md R102). -/
def CmdFields.opOk (f : CmdFields) : Bool := f.op != 0 && f.op ≤ 5

/-- STRAT is one listed for the OP (spec/30_encoding.md R103). -/
def CmdFields.stratOk (f : CmdFields) : Bool :=
  match f.op.toNat with
  | 1 | 2 => f.strat == 0
  | 3 => f.strat ≤ 5
  | 4 => f.strat ≤ 2 || f.strat == 4
  | 5 => 1 ≤ f.strat && f.strat ≤ 3
  | _ => false

/-- VW has a value that R103 allows for the OP and STRAT (spec/30_encoding.md R103, R104). -/
def CmdFields.vwOk (f : CmdFields) : Bool :=
  match f.op.toNat, f.strat.toNat with
  | 3, 0 | 3, 2 | 3, 3 | 3, 4 | 4, 0 | 4, 4 | 5, 3 => f.vw == 0
  | 3, 5 => f.vw == 1
  | _, _ => true

/-- LAYOUT = 1 only for the vertical shared scan (spec/30_encoding.md R103, R105). -/
def CmdFields.layoutOk (f : CmdFields) : Bool := f.layout == 0 || (f.op == 5 && f.strat == 1)

/-- Bits [31:10] are 0 (spec/30_encoding.md R101). -/
def CmdFields.zeroOk (f : CmdFields) : Bool := f.zero == 0

/-- The fields of a legal command word (spec/30_encoding.md R107, R108). -/
def CmdFields.wf (f : CmdFields) : Bool := f.opOk && f.stratOk && f.vwOk && f.layoutOk && f.zeroOk

end Sys2Proof
end

