-- ==== Sys2Proof/Decode.lean ====
section
/-! DEFINITION. Decoding a command word (spec/30_encoding.md R101, R103, R107, R108), and the encoder. The decoder reads the
24 words of R107 whole; the encoder builds a word from the fields of R101 to R103. -/

namespace Sys2Proof

/-- The legal command words (spec/30_encoding.md R107), a comparison of all 32 bits; every other word is reserved (R108). -/
def decode (w : BitVec 32) : Option Instr :=
  match w.toNat with
  | 0x001 => some .pack128
  | 0x101 => some .pack256
  | 0x002 => some .maskgen128
  | 0x102 => some .maskgen256
  | 0x003 => some .decodeS
  | 0x013 => some .decodeV128
  | 0x113 => some .decodeV256
  | 0x023 => some .decodeV128M
  | 0x033 => some .decodeV128A
  | 0x043 => some .decodeV128U
  | 0x153 => some .decodeV256V
  | 0x004 => some .scanS
  | 0x014 => some .scanV128
  | 0x114 => some .scanV256
  | 0x024 => some .scanV128I
  | 0x124 => some .scanV256I
  | 0x044 => some .scanV128U
  | 0x015 => some .shscanV128
  | 0x115 => some .shscanV256
  | 0x215 => some .shscanV128X
  | 0x315 => some .shscanV256X
  | 0x025 => some .shscanH4
  | 0x125 => some .shscanH8
  | 0x035 => some .shscanT
  | _ => none

/-- The fields of a command word (spec/30_encoding.md R101). -/
def CmdFields.ofWord (w : BitVec 32) : CmdFields where
  op := w.extractLsb' 0 4
  strat := w.extractLsb' 4 4
  vw := w.extractLsb' 8 1
  layout := w.extractLsb' 9 1
  zero := w.extractLsb' 10 22

/-- The command word with these fields (spec/30_encoding.md R101). -/
def CmdFields.toWord (f : CmdFields) : BitVec 32 := f.zero ++ f.layout ++ f.vw ++ f.strat ++ f.op

/-- OP, STRAT, VW and LAYOUT of each command (spec/30_encoding.md R102, R103). -/
def Instr.fields : Instr → CmdFields
  | .pack128     => ⟨1, 0, 0, 0, 0⟩
  | .pack256     => ⟨1, 0, 1, 0, 0⟩
  | .maskgen128  => ⟨2, 0, 0, 0, 0⟩
  | .maskgen256  => ⟨2, 0, 1, 0, 0⟩
  | .decodeS     => ⟨3, 0, 0, 0, 0⟩
  | .decodeV128  => ⟨3, 1, 0, 0, 0⟩
  | .decodeV256  => ⟨3, 1, 1, 0, 0⟩
  | .decodeV128M => ⟨3, 2, 0, 0, 0⟩
  | .decodeV128A => ⟨3, 3, 0, 0, 0⟩
  | .decodeV128U => ⟨3, 4, 0, 0, 0⟩
  | .decodeV256V => ⟨3, 5, 1, 0, 0⟩
  | .scanS       => ⟨4, 0, 0, 0, 0⟩
  | .scanV128    => ⟨4, 1, 0, 0, 0⟩
  | .scanV256    => ⟨4, 1, 1, 0, 0⟩
  | .scanV128I   => ⟨4, 2, 0, 0, 0⟩
  | .scanV256I   => ⟨4, 2, 1, 0, 0⟩
  | .scanV128U   => ⟨4, 4, 0, 0, 0⟩
  | .shscanV128  => ⟨5, 1, 0, 0, 0⟩
  | .shscanV256  => ⟨5, 1, 1, 0, 0⟩
  | .shscanV128X => ⟨5, 1, 0, 1, 0⟩
  | .shscanV256X => ⟨5, 1, 1, 1, 0⟩
  | .shscanH4    => ⟨5, 2, 0, 0, 0⟩
  | .shscanH8    => ⟨5, 2, 1, 0, 0⟩
  | .shscanT     => ⟨5, 3, 0, 0, 0⟩

/-- The word of a command, from its fields (spec/30_encoding.md R101, R103). -/
def encode (i : Instr) : BitVec 32 := i.fields.toWord

/-- A command is well-formed when its fields pass the checks of spec/30_encoding.md R108. -/
def Instr.wf (i : Instr) : Bool := i.fields.wf

/-- The host's question about one row of spec/opcode_table.json: the command the decoder reads from a word of `nbits` bits, the bits above them 0. -/
def decodeTableWord (nbits w : Nat) : Option Instr :=
  if nbits ≤ 32 then decode (BitVec.ofNat 32 (w % 2 ^ nbits)) else none

end Sys2Proof
end

