-- ==== Sys2Proof/Machine/State.lean ====
section
/-! DEFINITION. The state of the block, its host and its memory, as plain data (spec/10_state.md), and the state after reset
(R48, spec/70_reset_and_hazards.md R341). -/

namespace Sys2Proof.Machine

/-- The byte-addressed memory (spec/20_memory.md R60), in the canonical form of `Memory.wf`: addresses strictly rising, no byte equal to what an unlisted address reads as. -/
abbrev Memory := List Host.Cell

/-- The sequencer (spec/10_state.md R36): STATUS.BUSY is `run`, STATUS.DONE is `fin`. -/
inductive Seq where
  | idle | run | fin
  deriving DecidableEq, Repr

/-- The error codes (spec/60_exceptions.md R301); codes 6 to 15 are never produced. -/
inductive ErrCode where
  | none | opcode | width | count | align | value
  deriving DecidableEq, Repr

/-- The operand latches (spec/10_state.md R25). -/
structure Latches where
  cmd    : BitVec 32
  w      : BitVec 5
  n      : BitVec 32
  src    : Word
  dst    : Word
  key    : BitVec 16
  keys   : Word
  k      : BitVec 16
  stride : Word
  deriving DecidableEq, Repr

/-- The write cursor of BPE (spec/10_state.md R39). -/
structure Bpe where
  wordIndex : Nat
  rem       : Nat
  acc       : Word
  deriving DecidableEq, Repr

/-- The scalar bit cursor SBC (spec/10_state.md R45). -/
structure Sbc where
  current      : Word
  overflowBits : Nat
  remaining    : Nat
  wi           : Nat
  deriving DecidableEq, Repr

/-- One mask set (spec/10_state.md R40, spec/40_mask_factory.md R133 to R138). -/
structure MaskSet where
  shuffle : List Nat
  mult    : List Lane
  shcnt   : List Lane
  cleanIn : List Lane
  cleanRe : List Lane
  predIn  : List Lane
  predRe  : List Lane
  deriving DecidableEq, Repr

/-- The two mask sets of MFL (spec/10_state.md R40). -/
structure Mfl where
  set0 : MaskSet
  set1 : MaskSet
  deriving DecidableEq, Repr

/-- The pipeline registers and the block cache of VBU (spec/10_state.md R41, R42). -/
structure Vbu where
  window      : List Byte
  raw         : List Lane
  r           : List Lane
  outputIndex : Nat
  byteOff     : Nat
  blkLo       : List Byte
  blkHi       : List Byte
  blkNo       : Nat
  deriving DecidableEq, Repr

/-- The predicate register, bitmap accumulator and count of VPS (spec/10_state.md R43). -/
structure Vps where
  pred : List Lane
  bacc : BitVec 32
  cnt  : BitVec 32
  deriving DecidableEq, Repr

/-- The state of one scanner: R40, R41 and R43 together, which SHSCAN.T has once per worker (spec/10_state.md R44). -/
structure Scanner where
  mfl : Mfl
  vbu : Vbu
  vps : Vps
  deriving DecidableEq, Repr

/-- The registers of SSM (spec/10_state.md R44); the key store has `K_MAX` entries (spec/45_shared_scanner.md R264). -/
structure Ssm where
  keyStore : List (BitVec 16)
  octet    : List Lane
  j        : Nat
  jg       : Nat
  bcast    : List (BitVec 16)
  accs     : List Lane
  deriving DecidableEq, Repr

/-- What a running command reads and writes beside its latches: memory, the progress index (spec/10_state.md R36) and the internal registers of the units (R39 to R46). -/
structure Engine where
  mem     : Memory
  idx     : Nat
  bpe     : Bpe
  sbc     : Sbc
  scan    : Scanner
  ssm     : Ssm
  workers : List Scanner
  deriving DecidableEq, Repr

/-- What the host or the platform does to the block and its memory (spec/30_encoding.md R111, spec/70_reset_and_hazards.md R340). -/
inductive HostAct where
  | wr (off : Nat) (v : Word)       -- write the register at a byte offset
  | rd (off : Nat)                  -- read the register at a byte offset
  | memWr (addr : Word) (b : Byte)  -- write one byte of memory
  | memRd (addr : Word)             -- read one byte of memory
  | reset                           -- the reset event
  deriving DecidableEq, Repr

/-- An action and whether it arrives before the running command has ended; the flag means nothing while no command runs (DESIGN CHOICE, notes/assumptions/2.md). -/
structure HostEvent where
  act   : HostAct
  early : Bool
  deriving DecidableEq, Repr

/-- The platform's parameters, arguments of the model that no step changes (spec/93 P1, P2): `NWORK` is `extraWorkers + 1`; the register window is the `0x68 + reservedBytes` bytes at `regBase`. -/
structure Platform where
  extraWorkers  : Nat
  regBase       : Word
  reservedBytes : Nat
  deriving DecidableEq, Repr

/-- The whole machine. -/
structure State where
  cmd        : BitVec 32        -- spec/10_state.md R24
  width      : BitVec 5         -- R26
  nval       : BitVec 32        -- R27
  src        : Word             -- R28
  dst        : Word             -- R29
  key        : BitVec 16        -- R30
  keys       : Word             -- R31
  nkeys      : BitVec 16        -- R32
  stride     : Word             -- R33
  matchCount    : BitVec 32        -- R34
  errinfo    : Word             -- R35
  errcode    : ErrCode          -- R23: STATUS.ERRCODE, and STATUS.ERR is errcode ≠ none
  seq        : Seq              -- R36
  op         : Latches          -- R25
  eng        : Engine           -- R36, R39 to R46
  host       : List HostEvent   -- the model's: actions still to come, oldest first
  reads      : List Word        -- the model's: what host reads returned, oldest first
  interfered : Bool             -- the model's: spec/20_memory.md R84 broken during this command
  draw       : Nat              -- the model's: counter of UNSPEC draws, spec/00_scope.md R17
  platform   : Platform         -- the model's: spec/93 P1, P2
  deriving DecidableEq, Repr

/-- Why a step can stop with a fault. -/
inductive Fault where
  /-- Raised by `step` on a host register access that is not 64-bit aligned, for which spec/10_state.md R21 gives no effect. No command raises it. Safe: the machine stops. -/
  | unalignedRegisterAccess
  deriving DecidableEq, Repr

/-- Why a step can be refused. -/
inductive Refusal where
  /-- Raised by an arm of `exec` for a command that has no meaning yet; no arm does. Safe: the machine stops. -/
  | notModelled (mnemonic : String)
  deriving DecidableEq, Repr

/-- No mask computed: the value of MFL after reset, DESIGN CHOICE (notes/assumptions/10.md). -/
def MaskSet.empty : MaskSet := ⟨[], [], [], [], [], [], []⟩

/-- A scanner before any command, DESIGN CHOICE (notes/assumptions/10.md). -/
def Scanner.empty : Scanner where
  mfl := ⟨MaskSet.empty, MaskSet.empty⟩
  vbu := ⟨[], [], [], 0, 0, [], [], 0⟩
  vps := ⟨[], 0, 0⟩

/-- The internal registers after reset: unspecified in spec/70_reset_and_hazards.md R341, here DESIGN CHOICE (notes/assumptions/10.md). -/
def Engine.fresh (m : Memory) : Engine where
  mem := m
  idx := 0
  bpe := ⟨0, 64, 0⟩
  sbc := ⟨0, 0, 0, 0⟩
  scan := Scanner.empty
  ssm := ⟨List.replicate Config.kMax 0, [], 0, 0, [], []⟩
  workers := []

/-- The machine right after reset (spec/10_state.md R48, spec/70_reset_and_hazards.md R341), memory with nothing listed. -/
def State.reset : State where
  cmd := 0
  width := 0
  nval := 0
  src := 0
  dst := 0
  key := 0
  keys := 0
  nkeys := 0
  stride := 0
  matchCount := 0
  errinfo := 0
  errcode := .none
  seq := .idle
  op := ⟨0, 0, 0, 0, 0, 0, 0, 0, 0⟩
  eng := Engine.fresh []
  host := []
  reads := []
  interfered := false
  draw := 0
  platform := ⟨0, 0xFFFFFFFFFFFFF000, 0⟩

end Sys2Proof.Machine
end

