-- ==== Sys2Proof/Machine/Ops.lean ====
section
/-! DEFINITION. The shared operations: bounded loops, memory access (spec/00_scope.md R15, spec/20_memory.md R60, R61),
sizes (spec/00_scope.md R18), the error stop and the return from it (spec/60_exceptions.md R310, R312), the end of a command. -/

namespace Sys2Proof.Machine

/-- `for i in 0 .. n-1: a <- f i a`, in ascending order. -/
def upto {α : Type} : Nat → (Nat → α → α) → α → α
  | 0, _, a => a
  | n + 1, f, a => f n (upto n f a)

/-- `Σ_{k<n} p(k)·2^k`: the number whose bit `k` is `p k`. -/
def bitsOf (p : Nat → Bool) : Nat → Nat
  | 0 => 0
  | n + 1 => bitsOf p n + (if p n then 2 ^ n else 0)

/-- The number of `k < n` with `p k`: popcount over the bits of `bitsOf p n` (spec/00_scope.md R13). -/
def countOf (p : Nat → Bool) : Nat → Nat
  | 0 => 0
  | n + 1 => countOf p n + (if p n then 1 else 0)

/-! ## Memory -/

/-- What a byte that nothing has written reads as: 0, DESIGN CHOICE (notes/assumptions/4.md). -/
def Memory.unlisted : Byte := 0

/-- The byte under a key. -/
def Memory.lookup : Memory → Nat → Byte
  | [], _ => Memory.unlisted
  | (k, b) :: m, a => if k = a then b else Memory.lookup m a

/-- Writes the byte under a key and keeps the canonical form. -/
def Memory.insert : Memory → Nat → Byte → Memory
  | [], a, v => if v = Memory.unlisted then [] else [(a, v)]
  | (k, b) :: m, a, v =>
    if a < k then (if v = Memory.unlisted then (k, b) :: m else (a, v) :: (k, b) :: m)
    else if a = k then (if v = Memory.unlisted then m else (a, v) :: m)
    else (k, b) :: Memory.insert m a v

/-- Keys strictly above `lo` (or from 0), rising, below `2^64`, and no byte equal to the unlisted one. -/
def Memory.wfFrom : Nat → Memory → Bool
  | _, [] => true
  | lo, (k, b) :: m => decide (lo ≤ k) && decide (k < addrSpace) && (b != Memory.unlisted) && Memory.wfFrom (k + 1) m

/-- The canonical form of memory. -/
def Memory.wf (m : Memory) : Bool := Memory.wfFrom 0 m

/-- `mem[a]`, address arithmetic mod `2^64` (spec/20_memory.md R60). -/
def byteAt (m : Memory) (a : Nat) : Byte := m.lookup (a % addrSpace)

/-- `mem[a] <- v`. -/
def setByte (m : Memory) (a : Nat) (v : Byte) : Memory := m.insert (a % addrSpace) v

/-- `MemRead(a, n)`, little-endian (spec/00_scope.md R15). -/
def memRead (m : Memory) (a : Nat) : Nat → Nat
  | 0 => 0
  | n + 1 => (byteAt m a).toNat + 256 * memRead m (a + 1) n

/-- `MemWrite(a, n, v)`, little-endian (spec/00_scope.md R15). -/
def memWrite (m : Memory) (a : Nat) : Nat → Nat → Memory
  | 0, _ => m
  | n + 1, v => memWrite (setByte m a (BitVec.ofNat 8 v)) (a + 1) n (v / 256)

/-- `MemBytes(a, n)` (spec/00_scope.md R15). -/
def memBytes (m : Memory) (a n : Nat) : List Byte := (List.range n).map fun k => byteAt m (a + k)

/-- `UNSPEC(8·n)` for the `n` bytes at an address: a free value per byte (spec/00_scope.md R17; notes/assumptions/5.md). -/
def unspecAt (draw a : Nat) : Nat → Nat
  | 0 => 0
  | n + 1 => (Config.unspec draw (a % addrSpace)).toNat + 256 * unspecAt draw (a + 1) n

/-- The `live` low bits of `v` and, above them, free bits: what a granule of `width` bits holds when only `live` of its positions are below `N` (spec/20_memory.md R66). -/
def mergeTail (width live v free : Nat) : Nat :=
  if width ≤ live then v else v % 2 ^ live + 2 ^ live * (free / 2 ^ live)

/-! ## Regions -/

/-- The `len` bytes from `base`, before reduction mod `2^64`. -/
structure Span where
  base : Nat
  len  : Nat
  deriving DecidableEq, Repr

/-- The address lies in the region, mod `2^64`. -/
def Span.has (r : Span) (a : Nat) : Bool :=
  decide ((a + addrSpace - r.base % addrSpace) % addrSpace < r.len)

/-- The region goes past address `2^64 - 1` (spec/20_memory.md R60), its base taken before reduction mod `2^64`. That a bitmap whose base alone passes it (a STRIDE near `2^64`) wraps too is a DESIGN CHOICE (notes/assumptions/6.md). -/
def Span.wraps (r : Span) : Bool := decide (0 < r.len) && decide (addrSpace < r.base + r.len)

/-- Two regions that do not wrap have no byte in common. -/
def Span.apart (r t : Span) : Bool :=
  decide (r.len = 0) || decide (t.len = 0) || decide (r.base + r.len ≤ t.base) || decide (t.base + t.len ≤ r.base)

/-- The address lies in one of the regions. -/
def inSpans (rs : List Span) (a : Nat) : Bool := rs.any fun r => r.has a

/-- Every byte of a region becomes `UNSPEC(8)` (spec/60_exceptions.md R311; spec/93 U6, U8, U10). -/
def fillUnspec (draw : Nat) (r : Span) (m : Memory) : Memory :=
  upto r.len (fun k m => setByte m (r.base + k) (Config.unspec draw ((r.base + k) % addrSpace))) m

/-- Every byte of every region becomes `UNSPEC(8)`. -/
def fillAll (draw : Nat) : List Span → Memory → Memory
  | [], m => m
  | r :: rs, m => fillAll draw rs (fillUnspec draw r m)

/-! ## Sizes (spec/00_scope.md R18) -/

/-- `C(W,N)`, the live bytes. -/
def liveBytes (w n : Nat) : Nat := ceilDiv (w * n) 8

/-- `LW(W,N)`, the live words. -/
def liveWords (w n : Nat) : Nat := ceilDiv (w * n) 64

/-- `VPAD(L)`. -/
def vpad (l : Nat) : Nat := 4 * l

/-- `packedSize(W,N,L)`, the bytes PACK writes. -/
def packedSize (w n l : Nat) : Nat := 32 * ceilDiv (liveWords w n) 4 + vpad l

/-- `compressedSize(W,N,L)`, the readable bytes a reader of lane-group size `L` needs. -/
def compressedSize (w n l : Nat) : Nat := liveBytes w n + vpad l

/-- `decodedSize(N)`. -/
def decodedSize (n : Nat) : Nat := 4 * n + 32

/-- `bitmapSize(N)`. -/
def bitmapSize (n : Nat) : Nat := ceilDiv n 8 + 4

/-! ## The running command's constants -/

/-- What is constant while a command runs: the latches (spec/10_state.md R25), `NWORK` (spec/93 P1), the number of this command's draw. -/
structure Job where
  op    : Latches
  nwork : Nat
  draw  : Nat
  deriving DecidableEq, Repr

/-- `W` of a command. -/
def Job.w (j : Job) : Nat := j.op.w.toNat

/-- `N` of a command. -/
def Job.n (j : Job) : Nat := j.op.n.toNat

/-- `K` of a command. -/
def Job.k (j : Job) : Nat := j.op.k.toNat

/-- `SRC` of a command. -/
def Job.src (j : Job) : Nat := j.op.src.toNat

/-- `DST` of a command. -/
def Job.dst (j : Job) : Nat := j.op.dst.toNat

/-- `KEYS` of a command. -/
def Job.keys (j : Job) : Nat := j.op.keys.toNat

/-- `STRIDE` of a command. -/
def Job.stride (j : Job) : Nat := j.op.stride.toNat

/-- The constants of the command whose latches State holds. -/
def State.job (s : State) : Job := ⟨s.op, s.platform.extraWorkers + 1, s.draw⟩

/-! ## Error stops and the end of a command -/

/-- The error code and its detail (spec/60_exceptions.md R301). -/
structure Stop where
  code : ErrCode
  info : Word
  deriving DecidableEq, Repr

/-- `raise ERR_x(info)`: the one way a command ends early (spec/60_exceptions.md R310). Nothing else is saved and control goes nowhere. -/
def State.raise (s : State) (e : Stop) : State :=
  { s with seq := .fin, errcode := e.code, errinfo := e.info, matchCount := 0, draw := s.draw + 1 }

/-- CTRL.CLEAR while not BUSY, which is also the return from an error stop (spec/10_state.md R22, R36, spec/60_exceptions.md R312). -/
def State.clearResults (s : State) : State :=
  { s with seq := .idle, errcode := .none, errinfo := 0, matchCount := 0 }

/-- The normal end of a command with what it leaves in MATCHES (spec/10_state.md R23, R34 to R36). -/
def State.finish (s : State) (count : BitVec 32) : State :=
  { s with seq := .fin, errcode := .none, errinfo := 0, matchCount := count, draw := s.draw + 1 }

/-- The memory and internal registers a command leaves. -/
def State.withEngine (s : State) (e : Engine) : State := { s with eng := e }

/-- How the body of a command ends: normally with a count, or by the one error of its run, `ERR_VALUE(idx)` (spec/60_exceptions.md R300). -/
inductive RunEnd where
  | done (e : Engine) (count : BitVec 32)
  | stop (e : Engine) (idx : Nat)
  deriving DecidableEq, Repr

/-- The state after the body of a command has ended. The internal registers keep what the body left, and those it does not use what they held: 93 U11 leaves them any value between commands, DESIGN CHOICE (notes/assumptions/20.md). -/
def State.conclude (s : State) : RunEnd → State
  | .done e count => (s.withEngine e).finish count
  | .stop e idx => (s.withEngine e).raise ⟨.value, BitVec.ofNat 64 idx⟩

end Sys2Proof.Machine
end

