-- ==== Sys2Proof/Machine/Flags.lean ====
section
/-! DEFINITION. STATUS: the only flags of the block (spec/10_state.md R23, R38), and the numbers of the error codes
(spec/60_exceptions.md R301). -/

namespace Sys2Proof.Machine

/-- The number of an error code (spec/60_exceptions.md R301). -/
def ErrCode.bits : ErrCode → BitVec 4
  | .none => 0
  | .opcode => 1
  | .width => 2
  | .count => 3
  | .align => 4
  | .value => 5

/-- STATUS.BUSY (spec/10_state.md R36). -/
def State.busy (s : State) : Bool := decide (s.seq = .run)

/-- STATUS.DONE (spec/10_state.md R36). -/
def State.done (s : State) : Bool := decide (s.seq = .fin)

/-- STATUS.ERR (spec/10_state.md R23): DEDUCED to be `ERRCODE ≠ 0` (notes/assumptions/18.md). -/
def State.err (s : State) : Bool := decide (s.errcode ≠ .none)

/-- STATUS as a 64-bit read returns it (spec/10_state.md R23). -/
def State.status (s : State) : Word :=
  (0 : BitVec 52) ++ s.errcode.bits ++ (0 : BitVec 5) ++ BitVec.ofBool s.err ++ BitVec.ofBool s.done ++ BitVec.ofBool s.busy

end Sys2Proof.Machine
end

