-- ==== Sys2Proof/Machine/Operands.lean ====
section
/-! DEFINITION. Operands: their checks at START (spec/20_memory.md R70, spec/60_exceptions.md R301 to R309), the footprints of
a command (spec/20_memory.md R75, R76) and the contract over them (R60, R84, R88), and the driver every command runs under. -/

namespace Sys2Proof.Machine

/-! ## Start-time checks -/

/-- The operands a command checks and the alignment each needs, in the order SRC, KEYS, DST, STRIDE (spec/20_memory.md R70, spec/60_exceptions.md R306). -/
def alignNeeds (i : Instr) (o : Latches) : List (Word × Nat) :=
  match i with
  | .pack128 | .pack256 => [(o.src, 2), (o.dst, 8)]
  | .maskgen128 | .maskgen256 => [(o.dst, 4)]
  | .decodeV128A => [(o.src, 16), (o.dst, 4)]
  | .decodeS | .decodeV128 | .decodeV256 | .decodeV128M | .decodeV128U | .decodeV256V => [(o.src, 8), (o.dst, 4)]
  | .scanV128U => [(o.src, 8), (o.dst, 4)]
  | .scanS | .scanV128 | .scanV256 | .scanV128I | .scanV256I => [(o.src, 8), (o.dst, 1)]
  | .shscanV128 | .shscanV256 | .shscanV128X | .shscanV256X | .shscanT => [(o.src, 8), (o.keys, 2), (o.dst, 1)]
  | .shscanH4 | .shscanH8 => [(o.src, 8), (o.keys, 2), (o.dst, 4), (o.stride, 4)]

/-- The first operand of the list that is not aligned (spec/60_exceptions.md R306). -/
def firstMisaligned : List (Word × Nat) → Option Word
  | [] => none
  | (v, a) :: rest => if v.toNat % a = 0 then firstMisaligned rest else some v

/-- The start-time error of a legal command, in the order of spec/60_exceptions.md R309; `none` when it starts. -/
def startStop (i : Instr) (o : Latches) : Option Stop :=
  if o.w.toNat < 1 ∨ 16 < o.w.toNat then some ⟨.width, o.w.setWidth 64⟩
  else if i.op = .shscan ∧ Config.kMax < o.k.toNat then some ⟨.count, o.k.setWidth 64⟩
  else (firstMisaligned (alignNeeds i o)).map fun v => ⟨.align, v⟩

/-- `ERR_OPCODE` with the reserved word (spec/60_exceptions.md R302). -/
def opcodeStop (word : BitVec 32) : Stop := ⟨.opcode, word.setWidth 64⟩

/-! ## Footprints -/

/-- The lane-group size of the vector strategies, or the padding size PACK writes for (spec/30_encoding.md R104). -/
def laneCount : Instr → Nat
  | .pack256 | .maskgen256 | .decodeV256 | .decodeV256V | .scanV256 | .scanV256I | .shscanV256 | .shscanV256X | .shscanH8 => 8
  | _ => 4

/-- The windows of all lane-groups together: `[SRC, SRC + bo(G-1) + 4·L)`, one region because a window is longer than the distance to the next (spec/20_memory.md R75). -/
def windowSpan (o : Latches) (l : Nat) : Span :=
  ⟨o.src.toNat, if o.n.toNat = 0 then 0 else (ceilDiv o.n.toNat l - 1) * l * o.w.toNat / 8 + 4 * l⟩

/-- The aligned blocks of DECODE.V128A (spec/20_memory.md R75). -/
def blockSpan (o : Latches) : Span :=
  ⟨o.src.toNat, if o.n.toNat = 0 then 0 else 16 * ((ceilDiv o.n.toNat 4 - 1) * 4 * o.w.toNat / 8 / 16) + 32⟩

/-- The live words (spec/20_memory.md R75). -/
def liveSpan (o : Latches) : Span := ⟨o.src.toNat, 8 * liveWords o.w.toNat o.n.toNat⟩

/-- The key table, and the source only if there is a key (spec/20_memory.md R75). -/
def sharedSpans (o : Latches) (source : Span) : List Span :=
  if o.k.toNat = 0 then [] else [⟨o.keys.toNat, 2 * o.k.toNat⟩, source]

/-- The read footprint of a command (spec/20_memory.md R75). -/
def readSpans (i : Instr) (o : Latches) : List Span :=
  match i with
  | .pack128 | .pack256 => [⟨o.src.toNat, 2 * o.n.toNat⟩]
  | .maskgen128 | .maskgen256 => []
  | .decodeS | .scanS => [liveSpan o]
  | .decodeV128 | .decodeV128M | .decodeV128U | .scanV128 | .scanV128I | .scanV128U => [windowSpan o 4]
  | .decodeV256 | .decodeV256V | .scanV256 | .scanV256I => [windowSpan o 8]
  | .decodeV128A => [blockSpan o]
  | .shscanV128 | .shscanV128X | .shscanT => sharedSpans o (windowSpan o 4)
  | .shscanV256 | .shscanV256X => sharedSpans o (windowSpan o 8)
  | .shscanH4 | .shscanH8 => sharedSpans o (liveSpan o)

/-- The bytes of one bitmap: `T` for byte granules, `4·U` for the 32-bit granules (spec/20_memory.md R76). -/
def bitmapLen (i : Instr) (n : Nat) : Nat :=
  match i with
  | .scanV128U | .shscanH4 | .shscanH8 => 4 * ceilDiv n 32
  | _ => ceilDiv n 8

/-- The bitmap of each key in the separate layout, `len` bytes at `DST + j·STRIDE` (spec/20_memory.md R76), the base not reduced mod `2^64` (notes/assumptions/6.md). -/
def bitmapSpans (o : Latches) (len : Nat) : List Span :=
  (List.range o.k.toNat).map fun j => ⟨o.dst.toNat + j * o.stride.toNat, len⟩

/-- The write footprint of a command (spec/20_memory.md R76). -/
def writeSpans (i : Instr) (o : Latches) : List Span :=
  let n := o.n.toNat
  match i with
  | .pack128 | .pack256 => [⟨o.dst.toNat, packedSize o.w.toNat n (laneCount i)⟩]
  | .maskgen128 | .maskgen256 => [⟨o.dst.toNat, 56 * (laneCount i)⟩]
  | .decodeS => [⟨o.dst.toNat, 4 * n⟩]
  | .decodeV128 | .decodeV128M | .decodeV128A | .decodeV128U | .decodeV256 | .decodeV256V =>
    [⟨o.dst.toNat, 4 * (laneCount i) * ceilDiv n (laneCount i)⟩]
  | .scanS | .scanV128 | .scanV256 | .scanV128I | .scanV256I | .scanV128U => [⟨o.dst.toNat, bitmapLen i n⟩]
  | .shscanV128X | .shscanV256X => [⟨o.dst.toNat, o.k.toNat * ceilDiv n 8⟩]
  | .shscanV128 | .shscanV256 | .shscanT | .shscanH4 | .shscanH8 => bitmapSpans o (bitmapLen i n)

/-! ## The contract -/

/-- The register window of the block (spec/10_state.md R20; spec/93 P2), its base not reduced: of a window that itself passes `2^64 - 1` the wrapped part is not seen, DESIGN CHOICE (notes/assumptions/9.md). -/
def Platform.window (p : Platform) : Span := ⟨p.regBase.toNat, 0x68 + p.reservedBytes⟩

/-- The bitmaps of different keys do not overlap (spec/20_memory.md R88): in the separate layout `STRIDE` is at least a bitmap. -/
def bitmapsApart (i : Instr) (o : Latches) : Bool :=
  match i with
  | .shscanV128 | .shscanV256 | .shscanT | .shscanH4 | .shscanH8 =>
    decide (o.k.toNat ≤ 1) || decide (bitmapLen i o.n.toNat ≤ o.stride.toNat)
  | _ => true

/-- The contract of a command over its footprints: none wraps (spec/20_memory.md R60), reads and writes are disjoint, bitmaps are disjoint, neither meets the register window (R88), and the host has kept out while BUSY (R84). -/
def State.contractHeld (s : State) (i : Instr) : Bool :=
  let rs := readSpans i s.op
  let ws := writeSpans i s.op
  let win := s.platform.window
  !s.interfered
    && (rs ++ ws).all (fun r => !r.wraps && r.apart win)
    && rs.all (fun r => ws.all fun w => r.apart w)
    && bitmapsApart i s.op

/-! ## The driver of a command -/

/-- What a command leaves when its contract does not hold (spec/93 U7, U8, U9): it ends, its whole write footprint is UNSPEC, and MATCHES of a SCAN and the error of a PACK are free values. The units keep their registers, and `idx` what START left, an ERR_VALUE of PACK included. DESIGN CHOICE (notes/assumptions/6.md, 11.md). -/
def State.outOfContract (s : State) (i : Instr) : RunEnd :=
  let e := { s.eng with mem := fillAll s.draw (writeSpans i s.op) s.eng.mem }
  match i.op with
  | .scan => .done e (Config.unspecCount s.draw)
  | .pack =>
    if 0 < s.op.n.toNat ∧ Config.unspecStops s.draw = true then .stop e (Config.unspecIndex s.draw % s.op.n.toNat)
    else .done e 0
  | .maskgen | .decode | .shscan => .done e 0

/-- A command: its start-time checks (spec/60_exceptions.md R309), then its body over the latched operands, then its end. -/
def command (i : Instr) (s : State) (body : Job → Engine → RunEnd) : Host.Outcome State Fault Refusal :=
  match startStop i s.op with
  | some e => .next (s.raise e)
  | none =>
    .next (if s.contractHeld i then s.conclude (body s.job s.eng) else s.conclude (s.outOfContract i))

end Sys2Proof.Machine
end

