-- ==== Sys2Proof/Machine/Packer.lean ====
section
/-! DEFINITION. The packing unit (BPE) and the PACK commands (spec/41_bit_packer.md). -/

namespace Sys2Proof.Machine

/-- Stores the current output word and moves to the next with the given cursor (spec/41_bit_packer.md R162, R163). -/
def Engine.storeWord (dst : Nat) (e : Engine) (acc : Word) (rem : Nat) : Engine :=
  { e with
    mem := memWrite e.mem (dst + 8 * e.bpe.wordIndex) 8 e.bpe.acc.toNat
    bpe := ⟨e.bpe.wordIndex + 1, rem, acc⟩ }

/-- Packs one value at the cursor (spec/41_bit_packer.md R162, R163). -/
def packValue (w dst : Nat) (v : Nat) (e : Engine) : Engine :=
  let rem := e.bpe.rem
  let acc := e.bpe.acc ||| BitVec.ofNat 64 (v <<< (64 - rem))
  let e := { e with bpe := { e.bpe with acc := acc } }
  if w < rem then { e with bpe := { e.bpe with rem := rem - w } }
  else if rem = w then e.storeWord dst 0 64
  else e.storeWord dst (BitVec.ofNat 64 (v >>> rem)) (64 - (w - rem))

/-- Reads entry `i` of the column and packs it, or stops there with `ERR_VALUE(i)` and the engine as it stands (spec/41_bit_packer.md R167, R168). -/
def packEntry (j : Job) (i : Nat) (e : Engine) : Except (Nat × Engine) Engine :=
  let v := memRead e.mem (j.src + 2 * i) 2
  if 2 ^ j.w ≤ v then .error (i, e)
  else .ok { packValue j.w j.dst v e with idx := i + 1 }

/-- Packs the entries `0 .. n-1` in order, up to the first that is too wide (spec/41_bit_packer.md R164, R167). -/
def packEntries (j : Job) : Nat → Engine → Except (Nat × Engine) Engine
  | 0, e => .ok e
  | n + 1, e =>
    match packEntries j n e with
    | .ok e => packEntry j n e
    | .error x => .error x

/-- Stores the partial last word, if there is one (spec/41_bit_packer.md R164). -/
def packFlush (dst : Nat) (e : Engine) : Engine :=
  if e.bpe.rem < 64 then e.storeWord dst e.bpe.acc e.bpe.rem else e

/-- The zero words `LW .. TW-1` (spec/41_bit_packer.md R165). -/
def packPadding (j : Job) (l : Nat) (m : Memory) : Memory :=
  let lw := liveWords j.w j.n
  let tw := 4 * ceilDiv lw 4 + vpad l / 8
  upto (tw - lw) (fun k m => memWrite m (j.dst + 8 * (lw + k)) 8 0) m

/-- The body of PACK with the padding of lane-group size `L` (spec/41_bit_packer.md R168). After `ERR_VALUE` every byte of the write footprint is UNSPEC (spec/60_exceptions.md R307, R311), and the cursor stays where the loop of R168 stood at the offending entry: 93 U11 leaves it any value, DESIGN CHOICE (notes/assumptions/20.md). -/
def packBody (i : Instr) (j : Job) (e : Engine) : RunEnd :=
  match packEntries j j.n { e with idx := 0, bpe := ⟨0, 64, 0⟩ } with
  | .error (k, f) => .stop { f with idx := k, mem := fillAll j.draw (writeSpans i j.op) e.mem } k
  | .ok e =>
    let e := packFlush j.dst e
    .done { e with mem := packPadding j (laneCount i) e.mem } 0

/-- PACK.128 (spec/41_bit_packer.md R168). -/
def execPack128 (s : State) : Host.Outcome State Fault Refusal := command .pack128 s (packBody .pack128)

/-- PACK.256 (spec/41_bit_packer.md R169). -/
def execPack256 (s : State) : Host.Outcome State Fault Refusal := command .pack256 s (packBody .pack256)

end Sys2Proof.Machine
end

