-- ==== Sys2Proof/Machine/MaskFactory.lean ====
section
/-! DEFINITION. mask_factory_lut (MFL) and the MASKGEN commands (spec/40_mask_factory.md). -/

namespace Sys2Proof.Machine

/-- The phase `p_q` (spec/40_mask_factory.md R130). -/
def phase (w l q : Nat) : Nat := q * (l * w % 8)

/-- The bit offset of a lane from the start of the window (R131). -/
def laneOff (w l q lane : Nat) : Nat := phase w l q + w * lane

/-- The source byte `b(q,ℓ)` (R131). -/
def laneByte (w l q lane : Nat) : Nat := laneOff w l q lane / 8

/-- The in-byte shift `s(q,ℓ)` (R131). -/
def laneShift (w l q lane : Nat) : Nat := laneOff w l q lane % 8

/-- `L` lanes from a function of the lane number. -/
def lanesOf {α : Type} (l : Nat) (f : Nat → α) : List α := (List.range l).map f

/-- Mask set `q` for `(W, L)` and, where there is one, a key (R133 to R138; notes/assumptions/12.md). -/
def maskSet (w l q : Nat) (key : Option (BitVec 16)) : MaskSet where
  shuffle := lanesOf (4 * l) fun x => laneByte w l q (x / 4) + x % 4
  mult := lanesOf l fun x => BitVec.ofNat 32 (2 ^ (32 - w - laneShift w l q x))
  shcnt := lanesOf l fun x => BitVec.ofNat 32 (laneShift w l q x)
  cleanIn := lanesOf l fun x => BitVec.ofNat 32 ((2 ^ w - 1) <<< laneShift w l q x)
  cleanRe := lanesOf l fun _ => BitVec.ofNat 32 (2 ^ w - 1)
  predIn := match key with
    | some k => lanesOf l fun x => BitVec.ofNat 32 (k.toNat <<< laneShift w l q x)
    | none => []
  predRe := match key with
    | some k => lanesOf l fun _ => k.setWidth 32
    | none => []

/-- Both mask sets, computed when a command starts (R139, R141). -/
def maskSets (w l : Nat) (key : Option (BitVec 16)) : Mfl := ⟨maskSet w l 0 key, maskSet w l 1 key⟩

/-- The mask set that lane-group `g` uses, set `g mod 2` (R130). -/
def Mfl.forGroup (m : Mfl) (g : Nat) : MaskSet := if g % 2 = 0 then m.set0 else m.set1

/-- The lanes of a vector constant, little-endian, lane 0 lowest (R143). -/
def storeLanes (base : Nat) (v : List Lane) (m : Memory) : Memory :=
  upto v.length (fun x m => memWrite m (base + 4 * x) 4 (v.getD x 0).toNat) m

/-- The shuffle vector, one byte per index (R142, R143). -/
def storeShuffle (base : Nat) (v : List Nat) (m : Memory) : Memory :=
  upto v.length (fun x m => memWrite m (base + x) 1 (v.getD x 0)) m

/-- One mask set at `base`: seven vectors of `4·L` bytes in the order of R143. -/
def storeSet (l base : Nat) (ms : MaskSet) (m : Memory) : Memory :=
  let m := storeShuffle base ms.shuffle m
  let m := storeLanes (base + 4 * l) ms.mult m
  let m := storeLanes (base + 8 * l) ms.shcnt m
  let m := storeLanes (base + 12 * l) ms.cleanIn m
  let m := storeLanes (base + 16 * l) ms.cleanRe m
  let m := storeLanes (base + 20 * l) ms.predIn m
  storeLanes (base + 24 * l) ms.predRe m

/-- The body of MASKGEN with `L` lanes (R142, R144). The sets stay in MFL after the command: 93 U11 leaves them any value, DESIGN CHOICE (notes/assumptions/20.md). -/
def maskgenBody (l : Nat) (j : Job) (e : Engine) : RunEnd :=
  let mfl := maskSets j.w l (some j.op.key)
  let m := storeSet l j.dst mfl.set0 e.mem
  let m := storeSet l (j.dst + 28 * l) mfl.set1 m
  .done { e with mem := m, scan := { e.scan with mfl := mfl } } 0

/-- MASKGEN.128 (spec/40_mask_factory.md R142). -/
def execMaskgen128 (s : State) : Host.Outcome State Fault Refusal := command .maskgen128 s (maskgenBody 4)

/-- MASKGEN.256 (spec/40_mask_factory.md R144). -/
def execMaskgen256 (s : State) : Host.Outcome State Fault Refusal := command .maskgen256 s (maskgenBody 8)

end Sys2Proof.Machine
end

