-- ==== Sys2Proof/Machine/Unpacker.lean ====
section
/-! DEFINITION. vector_bit_unpacker (VBU) and the DECODE.V commands (spec/43_vector_unpacker.md). -/

namespace Sys2Proof.Machine

/-- The number of lane-groups, `ceil(N/L)` (spec/43_vector_unpacker.md R200). -/
def groups (n l : Nat) : Nat := ceilDiv n l

/-- `byteOff` of lane-group `g` (spec/43_vector_unpacker.md R201, R206). -/
def byteOff (w l g : Nat) : Nat := g * l * w / 8

/-- Byte `k` of a vector of bytes. -/
def byteOf (b : List Byte) (k : Nat) : Nat := (b.getD k 0).toNat

/-- One lane of the shuffled window, four selected bytes, the first lowest (spec/40_mask_factory.md R133, spec/43_vector_unpacker.md R202). -/
def shuffleLane (shuffle : List Nat) (b : List Byte) (x : Nat) : Lane :=
  BitVec.ofNat 32 (byteOf b (shuffle.getD (4 * x) 0) + 2 ^ 8 * byteOf b (shuffle.getD (4 * x + 1) 0)
    + 2 ^ 16 * byteOf b (shuffle.getD (4 * x + 2) 0) + 2 ^ 24 * byteOf b (shuffle.getD (4 * x + 3) 0))

/-- Step 2, the shuffle of a window into `L` lanes (spec/43_vector_unpacker.md R202). -/
def shuffleWindow (l : Nat) (ms : MaskSet) (b : List Byte) : List Lane := lanesOf l (shuffleLane ms.shuffle b)

/-- A way to realign lane `x` with value `raw` to bit 0. -/
abbrev Realign := MaskSet → Nat → Lane → Lane

/-- Step 3 by multiply and fixed shift (spec/43_vector_unpacker.md R203). -/
def realignMul (w : Nat) : Realign := fun ms x raw => (raw * ms.mult.getD x 0) >>> (32 - w)

/-- Step 3 with the explicit clean mask (spec/43_vector_unpacker.md R204, R211). -/
def realignMulMask (w : Nat) : Realign := fun ms x raw => realignMul w ms x raw &&& ms.cleanRe.getD x 0

/-- Step 3 by variable shift and clean mask (spec/43_vector_unpacker.md R214). -/
def realignShift : Realign := fun ms x raw => (raw >>> (ms.shcnt.getD x 0).toNat) &&& ms.cleanRe.getD x 0

/-- A way to load the window of a lane-group into `window`. -/
abbrev LoadWindow := Nat → Memory → Vbu → Vbu

/-- Step 1, the unaligned load of `4·L` bytes (spec/43_vector_unpacker.md R201). -/
def loadUnaligned (j : Job) (l : Nat) : LoadWindow := fun g m v =>
  let off := byteOff j.w l g
  { v with byteOff := off, window := memBytes m (j.src + off) (4 * l) }

/-- The load of DECODE.V128A through the two cached aligned blocks (spec/43_vector_unpacker.md R212). -/
def loadAligned (j : Job) : LoadWindow := fun g m v =>
  let off := byteOff j.w 4 g
  let n := off / 16
  let v := if g = 0 ∨ n ≠ v.blkNo then
      { v with blkLo := memBytes m (j.src + 16 * n) 16, blkHi := memBytes m (j.src + 16 * n + 16) 16, blkNo := n }
    else v
  { v with byteOff := off, window := ((v.blkLo ++ v.blkHi).drop (off % 16)).take 16 }

/-- Steps 1 and 2 of a lane-group: the window and its lanes in `raw` (spec/43_vector_unpacker.md R201, R202). -/
def loadGroup (l : Nat) (load : LoadWindow) (g : Nat) (m : Memory) (sc : Scanner) : Scanner :=
  let v := load g m sc.vbu
  { sc with vbu := { v with raw := shuffleWindow l (sc.mfl.forGroup g) v.window } }

/-- Step 3: the realigned lanes in `r` (spec/43_vector_unpacker.md R203, R204, R214). -/
def realignLanes (l : Nat) (realign : Realign) (g : Nat) (sc : Scanner) : Scanner :=
  { sc with vbu := { sc.vbu with r := lanesOf l fun x => realign (sc.mfl.forGroup g) x (sc.vbu.raw.getD x 0) } }

/-- Steps 1 to 3 of a lane-group (spec/43_vector_unpacker.md R201 to R203). -/
def realignGroup (l : Nat) (load : LoadWindow) (realign : Realign) (g : Nat) (m : Memory) (sc : Scanner) : Scanner :=
  realignLanes l realign g (loadGroup l load g m sc)

/-- Step 5, after the output of lane-group `g`: the output index goes past it and the byte offset is recomputed from the index (spec/43_vector_unpacker.md R205, R206, spec/10_state.md R41). -/
def advanceGroup (w l g : Nat) (sc : Scanner) : Scanner :=
  { sc with vbu := { sc.vbu with outputIndex := (g + 1) * l, byteOff := byteOff w l (g + 1) } }

/-- Step 4: all `L` entries of the lane-group are stored, those at or past `N` with UNSPEC (spec/43_vector_unpacker.md R205). -/
def storeGroup (j : Job) (l g : Nat) (r : List Lane) (m : Memory) : Memory :=
  upto l (fun x m =>
    let i := g * l + x
    let a := j.dst + 4 * i
    memWrite m a 4 (if i < j.n then (r.getD x 0).toNat else unspecAt j.draw a 4)) m

/-- One lane-group of DECODE (spec/43_vector_unpacker.md R209); `idx` stops at `N` (notes/assumptions/11.md). -/
def decodeGroup (j : Job) (l : Nat) (load : LoadWindow) (realign : Realign) (g : Nat) (e : Engine) : Engine :=
  let sc := realignGroup l load realign g e.mem e.scan
  { e with scan := advanceGroup j.w l g sc, mem := storeGroup j l g sc.vbu.r e.mem, idx := min ((g + 1) * l) j.n }

/-- MFL and the pipeline at the start of a vector command; VPS is not touched (spec/40_mask_factory.md R141, spec/70_reset_and_hazards.md R342). -/
def startPipeline (w l : Nat) (key : Option (BitVec 16)) (sc : Scanner) : Scanner :=
  { sc with mfl := maskSets w l key, vbu := { sc.vbu with outputIndex := 0, byteOff := 0 } }

/-- The body of a DECODE.V command (spec/43_vector_unpacker.md R209). -/
def decodeVectorBody (l : Nat) (load : Job → LoadWindow) (realign : Nat → Realign) (j : Job) (e : Engine) : RunEnd :=
  let e := { e with idx := 0, scan := startPipeline j.w l none e.scan }
  .done (upto (groups j.n l) (decodeGroup j l (load j) (realign j.w)) e) 0

/-- The lane-groups `8·u .. min(8·u + 7, G - 1)` of one pass of DECODE.V128U (spec/43_vector_unpacker.md R213). -/
def decodePass (j : Job) (u : Nat) (e : Engine) : Engine :=
  upto (min 8 (groups j.n 4 - 8 * u)) (fun h => decodeGroup j 4 (loadUnaligned j 4) (realignMul j.w) (8 * u + h)) e

/-- The body of DECODE.V128U: passes of eight lane-groups (spec/43_vector_unpacker.md R213). -/
def decodeUnrolledBody (j : Job) (e : Engine) : RunEnd :=
  let e := { e with idx := 0, scan := startPipeline j.w 4 none e.scan }
  .done (upto (ceilDiv (groups j.n 4) 8) (decodePass j) e) 0

/-- DECODE.V128 (spec/43_vector_unpacker.md R209). -/
def execDecodeV128 (s : State) : Host.Outcome State Fault Refusal :=
  command .decodeV128 s (decodeVectorBody 4 (fun j => loadUnaligned j 4) realignMul)

/-- DECODE.V256 (spec/43_vector_unpacker.md R210). -/
def execDecodeV256 (s : State) : Host.Outcome State Fault Refusal :=
  command .decodeV256 s (decodeVectorBody 8 (fun j => loadUnaligned j 8) realignMul)

/-- DECODE.V128M (spec/43_vector_unpacker.md R211). -/
def execDecodeV128M (s : State) : Host.Outcome State Fault Refusal :=
  command .decodeV128M s (decodeVectorBody 4 (fun j => loadUnaligned j 4) realignMulMask)

/-- DECODE.V128A (spec/43_vector_unpacker.md R212). -/
def execDecodeV128A (s : State) : Host.Outcome State Fault Refusal :=
  command .decodeV128A s (decodeVectorBody 4 loadAligned realignMul)

/-- DECODE.V128U (spec/43_vector_unpacker.md R213). -/
def execDecodeV128U (s : State) : Host.Outcome State Fault Refusal := command .decodeV128U s decodeUnrolledBody

/-- DECODE.V256V (spec/43_vector_unpacker.md R214). -/
def execDecodeV256V (s : State) : Host.Outcome State Fault Refusal :=
  command .decodeV256V s (decodeVectorBody 8 (fun j => loadUnaligned j 8) (fun _ => realignShift))

end Sys2Proof.Machine
end

