-- ==== Sys2Proof/Machine/PredicateScanner.lean ====
section
/-! DEFINITION. vector_predicate_scanner (VPS) and the SCAN.V commands (spec/44_vector_scanner.md). -/

namespace Sys2Proof.Machine

/-- A compare flavour: the broadcast predicate of a mask set, what step 3 does to the pipeline with `W`, `L` and `g`, and the lane that is compared (spec/44_vector_scanner.md R231, R232). -/
structure Compare where
  pred : MaskSet → List Lane
  move : Nat → Nat → Nat → Scanner → Scanner
  left : MaskSet → Vbu → Nat → Lane

/-- The realigned flavour: the lanes go to `r` and are compared there (spec/44_vector_scanner.md R231). -/
def compareRealigned : Compare where
  pred := MaskSet.predRe
  move := fun w l g => realignLanes l (realignMul w) g
  left := fun _ v x => v.r.getD x 0

/-- The in-place flavour: the field is not moved, so `r` is not written (spec/44_vector_scanner.md R232; notes/assumptions/20.md). -/
def compareInPlace : Compare where
  pred := MaskSet.predIn
  move := fun _ _ _ sc => sc
  left := fun ms v x => v.raw.getD x 0 &&& ms.cleanIn.getD x 0

/-- A scanner at the start of a scan: the pipeline's start, and VPS cleared (spec/10_state.md R43, spec/44_vector_scanner.md R238). -/
def startScanner (w l : Nat) (key : BitVec 16) (sc : Scanner) : Scanner :=
  { startPipeline w l (some key) sc with vps := { sc.vps with bacc := 0, cnt := 0 } }

/-- The granule number of value `i0` for granules of `gb` bytes (spec/44_vector_scanner.md R235). -/
def granuleOf (gb i0 : Nat) : Nat := i0 / (8 * gb)

/-- The compare and step 4 of a lane-group: the lane mask joins the granule in `bacc`, the matches below `N` join the count, and a full or last granule is written with UNSPEC at positions past `N` (spec/44_vector_scanner.md R233 to R236, R238). The broadcast register `pred` is loaded here, in each lane-group: DESIGN CHOICE (notes/assumptions/20.md). -/
def matchGroup (j : Job) (l gb dst : Nat) (cmp : Compare) (g : Nat) (sm : Scanner × Memory) : Scanner × Memory :=
  let (sc, m) := sm
  let ms := sc.mfl.forGroup g
  let pred := cmp.pred ms
  let i0 := g * l
  let a := dst + gb * granuleOf gb i0
  let eq := fun x => decide (cmp.left ms sc.vbu x = pred.getD x 0)
  let lmv := bitsOf (fun x => decide (i0 + x < j.n) && eq x) l
  let hits := countOf (fun x => decide (i0 + x < j.n) && eq x) l
  let bacc := sc.vps.bacc ||| BitVec.ofNat 32 (lmv <<< (i0 % (8 * gb)))
  let cnt := sc.vps.cnt + BitVec.ofNat 32 hits
  if (i0 + l) % (8 * gb) = 0 ∨ g + 1 = groups j.n l then
    let granule := mergeTail (8 * gb) (j.n - 8 * gb * granuleOf gb i0) bacc.toNat (unspecAt j.draw a gb)
    ({ sc with vps := ⟨pred, 0, cnt⟩ }, memWrite m a gb granule)
  else ({ sc with vps := ⟨pred, bacc, cnt⟩ }, m)

/-- One lane-group of SCAN: load, move, compare and output, advance (spec/44_vector_scanner.md R230, R238). -/
def scanGroup (j : Job) (l gb dst : Nat) (cmp : Compare) (g : Nat) (sm : Scanner × Memory) : Scanner × Memory :=
  let sm := matchGroup j l gb dst cmp g (cmp.move j.w l g (loadGroup l (loadUnaligned j l) g sm.2 sm.1), sm.2)
  (advanceGroup j.w l g sm.1, sm.2)

/-- The scan of the whole buffer for one key into the bitmap at `dst` (spec/44_vector_scanner.md R238). -/
def scanBuffer (j : Job) (l gb : Nat) (cmp : Compare) (key : BitVec 16) (dst : Nat) (sm : Scanner × Memory) : Scanner × Memory :=
  upto (groups j.n l) (scanGroup j l gb dst cmp) (startScanner j.w l key sm.1, sm.2)

/-- The body of a SCAN.V command: MATCHES gets the count (spec/44_vector_scanner.md R237, R238). -/
def scanVectorBody (l gb : Nat) (cmp : Compare) (j : Job) (e : Engine) : RunEnd :=
  let (sc, m) := scanBuffer j l gb cmp j.op.key j.dst (e.scan, e.mem)
  .done { e with idx := j.n, scan := sc, mem := m } sc.vps.cnt

/-- SCAN.V128 (spec/44_vector_scanner.md R238). -/
def execScanV128 (s : State) : Host.Outcome State Fault Refusal := command .scanV128 s (scanVectorBody 4 1 compareRealigned)

/-- SCAN.V256 (spec/44_vector_scanner.md R239). -/
def execScanV256 (s : State) : Host.Outcome State Fault Refusal := command .scanV256 s (scanVectorBody 8 1 compareRealigned)

/-- SCAN.V128I (spec/44_vector_scanner.md R240). -/
def execScanV128I (s : State) : Host.Outcome State Fault Refusal := command .scanV128I s (scanVectorBody 4 1 compareInPlace)

/-- SCAN.V256I (spec/44_vector_scanner.md R241). -/
def execScanV256I (s : State) : Host.Outcome State Fault Refusal := command .scanV256I s (scanVectorBody 8 1 compareInPlace)

/-- SCAN.V128U (spec/44_vector_scanner.md R242). -/
def execScanV128U (s : State) : Host.Outcome State Fault Refusal := command .scanV128U s (scanVectorBody 4 4 compareRealigned)

end Sys2Proof.Machine
end

