-- ==== Sys2Proof/Machine/ScalarCodec.lean ====
section
/-! DEFINITION. The scalar bit cursor (SBC) and its commands DECODE.S and SCAN.S (spec/42_scalar_codec.md). -/

namespace Sys2Proof.Machine

/-- What a cursor does with value `i`, `x` (spec/42_scalar_codec.md R181): it may write memory and its unit's registers. -/
abbrev Emit := Nat → BitVec 16 → Engine → Engine

/-- `current & low(W)`. -/
def Sbc.field (c : Sbc) (w : Nat) : BitVec 16 := BitVec.ofNat 16 (c.current.toNat % 2 ^ w)

/-- Emits the field at the bottom of `current` and counts it (R181). -/
def emitField (w : Nat) (emit : Emit) (e : Engine) : Engine :=
  let e := emit e.idx (e.sbc.field w) e
  { e with idx := e.idx + 1 }

/-- The inner loop: while a whole field is left in `current` and values are left (R181). A word holds at most 64 fields, so fuel 64 is enough. -/
def drainWord (w n : Nat) (emit : Emit) : Nat → Engine → Engine
  | 0, e => e
  | fuel + 1, e =>
    if w ≤ e.sbc.remaining ∧ e.idx < n then
      let e := emitField w emit e
      drainWord w n emit fuel
        { e with sbc := { e.sbc with current := e.sbc.current >>> w, remaining := e.sbc.remaining - w } }
    else e

/-- Loads word `wi` of the source, without the bits of the straddling field before it (R181). -/
def loadCursorWord (src : Nat) (e : Engine) : Engine :=
  let word := BitVec.ofNat 64 (memRead e.mem (src + 8 * e.sbc.wi) 8)
  { e with sbc := { e.sbc with current := word >>> e.sbc.overflowBits, remaining := 64 - e.sbc.overflowBits } }

/-- Completes the field that straddles into word `wi + 1` and emits it (R181). -/
def straddle (src w : Nat) (emit : Emit) (e : Engine) : Engine :=
  let next := BitVec.ofNat 64 (memRead e.mem (src + 8 * (e.sbc.wi + 1)) 8)
  let e := { e with sbc := { e.sbc with current := e.sbc.current ||| (next <<< e.sbc.remaining) } }
  let e := emitField w emit e
  { e with sbc := { e.sbc with overflowBits := w - e.sbc.remaining } }

/-- One pass of the outer loop (R181). -/
def cursorPass (src w n : Nat) (emit : Emit) (e : Engine) : Engine :=
  let e := drainWord w n emit 64 (loadCursorWord src e)
  if e.idx = n then e
  else
    let e := if 0 < e.sbc.remaining then straddle src w emit e else { e with sbc := { e.sbc with overflowBits := 0 } }
    { e with sbc := { e.sbc with wi := e.sbc.wi + 1 } }

/-- The outer loop (R181). A pass emits at least one value, so fuel `N` is enough. -/
def cursorLoop (src w n : Nat) (emit : Emit) : Nat → Engine → Engine
  | 0, e => e
  | fuel + 1, e => if e.idx < n then cursorLoop src w n emit fuel (cursorPass src w n emit e) else e

/-- `Cursor(SRC, W, N, emit)` (spec/42_scalar_codec.md R181). R181 sets `wi`, `overflowBits` and `idx` at the start and gives `current` and `remaining` no value before the first word is loaded: DESIGN CHOICE, both are 0 there, and stay 0 with `N = 0` (notes/assumptions/20.md). -/
def cursor (j : Job) (emit : Emit) (e : Engine) : Engine :=
  cursorLoop j.src j.w j.n emit j.n { e with idx := 0, sbc := ⟨0, 0, 0, 0⟩ }

/-- `emit` of DECODE.S (R183). -/
def emitEntry (j : Job) : Emit := fun i x e => { e with mem := memWrite e.mem (j.dst + 4 * i) 4 x.toNat }

/-- `emit` of SCAN.S (R184, R187): one match bit, a byte when it is full or the values end, the bits past `N` UNSPEC. -/
def emitMatch (j : Job) : Emit := fun i x e =>
  let m := decide (x = j.op.key)
  let vps := { e.scan.vps with
    bacc := e.scan.vps.bacc ||| (BitVec.ofNat 32 m.toNat <<< (i % 8))
    cnt := e.scan.vps.cnt + BitVec.ofNat 32 m.toNat }
  if i % 8 = 7 ∨ i + 1 = j.n then
    let a := j.dst + i / 8
    let byte := mergeTail 8 (j.n - 8 * (i / 8)) vps.bacc.toNat (unspecAt j.draw a 1)
    { e with mem := memWrite e.mem a 1 byte, scan := { e.scan with vps := { vps with bacc := 0 } } }
  else { e with scan := { e.scan with vps := vps } }

/-- The body of DECODE.S (R186). -/
def decodeScalarBody (j : Job) (e : Engine) : RunEnd := .done (cursor j (emitEntry j) e) 0

/-- The body of SCAN.S (R187). -/
def scanScalarBody (j : Job) (e : Engine) : RunEnd :=
  let e := cursor j (emitMatch j) { e with scan := { e.scan with vps := { e.scan.vps with bacc := 0, cnt := 0 } } }
  .done e e.scan.vps.cnt

/-- DECODE.S (spec/42_scalar_codec.md R186). -/
def execDecodeS (s : State) : Host.Outcome State Fault Refusal := command .decodeS s decodeScalarBody

/-- SCAN.S (spec/42_scalar_codec.md R187). -/
def execScanS (s : State) : Host.Outcome State Fault Refusal := command .scanS s scanScalarBody

end Sys2Proof.Machine
end

