-- ==== Sys2Proof/Machine/SharedScanner.lean ====
section
/-! DEFINITION. shared_scanner_multi_predicate (SSM) and the SHSCAN commands (spec/45_shared_scanner.md). -/

namespace Sys2Proof.Machine

/-- Reads the key table into the first `K` entries of the key store, once, at the start of the command; the others keep what they hold (spec/45_shared_scanner.md R264, spec/20_memory.md R68; notes/assumptions/20.md). -/
def loadKeys (j : Job) (e : Engine) : Engine :=
  { e with ssm := { e.ssm with
      keyStore := ((List.range j.k).map fun x => BitVec.ofNat 16 (memRead e.mem (j.keys + 2 * x) 2)) ++ e.ssm.keyStore.drop j.k } }

/-- Key `j` of the key store. -/
def Ssm.keyAt (s : Ssm) (x : Nat) : BitVec 16 := s.keyStore.getD x 0

/-- Where bitmap `x` starts in the separate layout (spec/45_shared_scanner.md R263). -/
def bitmapBase (j : Job) (x : Nat) : Nat := j.dst + x * j.stride

/-! ## Vertical family -/

/-- The lanes of `ys` in place of those of `xs` from position `at`. -/
def spliceLanes (xs ys : List Lane) (pos : Nat) : List Lane := xs.take pos ++ ys ++ xs.drop (pos + ys.length)

/-- The realigned values of one lane-group of an octet, if it holds a value below `N` (spec/45_shared_scanner.md R264, R265). -/
def octetGroup (j : Job) (l t h : Nat) (e : Engine) : Engine :=
  let g := t * (8 / l) + h
  if g * l < j.n then
    let sc := realignGroup l (loadUnaligned j l) (realignMul j.w) g e.mem e.scan
    { e with scan := advanceGroup j.w l g sc, ssm := { e.ssm with octet := spliceLanes e.ssm.octet sc.vbu.r (h * l) } }
  else e

/-- Where the byte of octet `t` and key `x` goes: the two layouts (spec/45_shared_scanner.md R263). -/
def octetAddr (j : Job) (interleaved : Bool) (t x : Nat) : Nat :=
  if interleaved then j.dst + t * j.k + x else bitmapBase j x + t

/-- The byte of octet `t` and key `x`, UNSPEC at positions past `N` (spec/45_shared_scanner.md R264, R265). -/
def octetKey (j : Job) (interleaved : Bool) (t x : Nat) (e : Engine) : Engine :=
  let a := octetAddr j interleaved t x
  let byte := bitsOf (fun m => decide (8 * t + m < j.n) && decide (e.ssm.octet.getD m 0 = (e.ssm.keyAt x).setWidth 32)) 8
  { e with
    mem := memWrite e.mem a 1 (mergeTail 8 (j.n - 8 * t) byte (unspecAt j.draw a 1))
    ssm := { e.ssm with j := x } }

/-- One octet: decode once, test every key (spec/45_shared_scanner.md R264). -/
def octetPass (j : Job) (l : Nat) (interleaved : Bool) (t : Nat) (e : Engine) : Engine :=
  let e := upto (8 / l) (octetGroup j l t) e
  let e := upto j.k (octetKey j interleaved t) e
  { e with idx := min (8 * (t + 1)) j.n }

/-- The body of the vertical commands (spec/45_shared_scanner.md R265): with no key nothing is read or written. The spec gives the octet lanes no value before a lane-group fills them and `j` none before the first key: DESIGN CHOICE, all are 0 at the start, with no key too (notes/assumptions/20.md). -/
def verticalBody (l : Nat) (interleaved : Bool) (j : Job) (e : Engine) : RunEnd :=
  let e := loadKeys j { e with idx := 0, ssm := { e.ssm with octet := List.replicate 8 0, j := 0 } }
  if j.k = 0 then .done e 0
  else
    let e := { e with scan := startPipeline j.w l none e.scan }
    .done (upto (ceilDiv j.n 8) (octetPass j l interleaved) e) 0

/-! ## Horizontal family -/

/-- Lane `c` of the comparison joins its accumulator (spec/45_shared_scanner.md R271, R272). -/
def accumulate (i : Nat) (x : BitVec 16) (s : Ssm) : Ssm :=
  { s with accs := (List.range s.accs.length).map fun c =>
      let hit := decide (c < s.bcast.length) && decide (x = s.bcast.getD c 0)
      s.accs.getD c 0 ||| (BitVec.ofNat 32 hit.toNat <<< (i % 32)) }

/-- The flush of lane `c`, UNSPEC at positions past `N` (spec/45_shared_scanner.md R271). -/
def flushLane (j : Job) (first i : Nat) (c : Nat) (e : Engine) : Engine :=
  let a := bitmapBase j (first + c) + 4 * (i / 32)
  let granule := mergeTail 32 (j.n - 32 * (i / 32)) (e.ssm.accs.getD c 0).toNat (unspecAt j.draw a 4)
  { e with
    mem := memWrite e.mem a 4 granule
    ssm := { e.ssm with accs := e.ssm.accs.set c 0 } }

/-- `emit` of the horizontal commands for the group whose first key is `first` (spec/45_shared_scanner.md R271, R272). -/
def emitKeys (j : Job) (first : Nat) : Emit := fun i x e =>
  let e := { e with ssm := accumulate i x e.ssm }
  if i % 32 = 31 ∨ i + 1 = j.n then upto e.ssm.bcast.length (flushLane j first i) e else e

/-- One key group: the whole stream against up to `L'` broadcast keys, a short last group with the keys that are left (spec/45_shared_scanner.md R269, R270). -/
def keyGroup (j : Job) (l jg : Nat) (e : Engine) : Engine :=
  let nk := min l (j.k - jg * l)
  let keys := (List.range nk).map fun c => e.ssm.keyAt (jg * l + c)
  let e := { e with ssm := { e.ssm with jg := jg, bcast := keys, accs := List.replicate l 0 } }
  cursor j (emitKeys j (jg * l)) e

/-- The body of the horizontal commands with `L'` keys per pass (spec/45_shared_scanner.md R272). -/
def horizontalBody (l : Nat) (j : Job) (e : Engine) : RunEnd :=
  .done (upto (ceilDiv j.k l) (keyGroup j l) (loadKeys j { e with idx := 0 })) 0

/-! ## Threaded family -/

/-- The keys of one worker's slice, `ceil(K/NWORK)` each (spec/45_shared_scanner.md R274). -/
def sliceLen (j : Job) : Nat := ceilDiv j.k j.nwork

/-- One key of a worker: SCAN.V128 into its bitmap, the count discarded (spec/45_shared_scanner.md R275). -/
def workerKey (j : Job) (w x : Nat) (e : Engine) : Engine :=
  let (sc, m) := scanBuffer j 4 1 compareRealigned (e.ssm.keyAt x) (bitmapBase j x) (e.workers.getD w Scanner.empty, e.mem)
  { e with workers := e.workers.set w sc, mem := m }

/-- A worker runs its slice `[w·S, min((w+1)·S, K))` (spec/45_shared_scanner.md R274, R275). -/
def workerRun (j : Job) (w : Nat) (e : Engine) : Engine :=
  let s := sliceLen j
  upto (min ((w + 1) * s) j.k - w * s) (fun d => workerKey j w (w * s + d)) e

/-- The body of SHSCAN.T: the workers one after the other, which any order may stand for (spec/45_shared_scanner.md R275, R284; notes/assumptions/8.md). -/
def threadedBody (j : Job) (e : Engine) : RunEnd :=
  let e := loadKeys j { e with idx := 0, workers := List.replicate j.nwork Scanner.empty }
  let e := upto j.nwork (workerRun j) e
  .done { e with idx := if j.k = 0 then 0 else j.n } 0

/-- SHSCAN.V128 (spec/45_shared_scanner.md R265). -/
def execShscanV128 (s : State) : Host.Outcome State Fault Refusal := command .shscanV128 s (verticalBody 4 false)

/-- SHSCAN.V256 (spec/45_shared_scanner.md R266). -/
def execShscanV256 (s : State) : Host.Outcome State Fault Refusal := command .shscanV256 s (verticalBody 8 false)

/-- SHSCAN.V128X (spec/45_shared_scanner.md R267). -/
def execShscanV128X (s : State) : Host.Outcome State Fault Refusal := command .shscanV128X s (verticalBody 4 true)

/-- SHSCAN.V256X (spec/45_shared_scanner.md R268). -/
def execShscanV256X (s : State) : Host.Outcome State Fault Refusal := command .shscanV256X s (verticalBody 8 true)

/-- SHSCAN.H4 (spec/45_shared_scanner.md R272). -/
def execShscanH4 (s : State) : Host.Outcome State Fault Refusal := command .shscanH4 s (horizontalBody 4)

/-- SHSCAN.H8 (spec/45_shared_scanner.md R273). -/
def execShscanH8 (s : State) : Host.Outcome State Fault Refusal := command .shscanH8 s (horizontalBody 8)

/-- SHSCAN.T (spec/45_shared_scanner.md R275). -/
def execShscanT (s : State) : Host.Outcome State Fault Refusal := command .shscanT s threadedBody

end Sys2Proof.Machine
end

