-- ==== Sys2Proof/Machine/Dispatch.lean ====
section
/-! DEFINITION. One arm per command of spec/30_encoding.md R107. -/

namespace Sys2Proof.Machine

def exec (i : Instr) (s : State) : Host.Outcome State Fault Refusal :=
  match i with
  | .pack128 => Sys2Proof.Machine.execPack128 s
  | .pack256 => Sys2Proof.Machine.execPack256 s
  | .maskgen128 => Sys2Proof.Machine.execMaskgen128 s
  | .maskgen256 => Sys2Proof.Machine.execMaskgen256 s
  | .decodeS => Sys2Proof.Machine.execDecodeS s
  | .decodeV128 => Sys2Proof.Machine.execDecodeV128 s
  | .decodeV256 => Sys2Proof.Machine.execDecodeV256 s
  | .decodeV128M => Sys2Proof.Machine.execDecodeV128M s
  | .decodeV128A => Sys2Proof.Machine.execDecodeV128A s
  | .decodeV128U => Sys2Proof.Machine.execDecodeV128U s
  | .decodeV256V => Sys2Proof.Machine.execDecodeV256V s
  | .scanS => Sys2Proof.Machine.execScanS s
  | .scanV128 => Sys2Proof.Machine.execScanV128 s
  | .scanV256 => Sys2Proof.Machine.execScanV256 s
  | .scanV128I => Sys2Proof.Machine.execScanV128I s
  | .scanV256I => Sys2Proof.Machine.execScanV256I s
  | .scanV128U => Sys2Proof.Machine.execScanV128U s
  | .shscanV128 => Sys2Proof.Machine.execShscanV128 s
  | .shscanV256 => Sys2Proof.Machine.execShscanV256 s
  | .shscanV128X => Sys2Proof.Machine.execShscanV128X s
  | .shscanV256X => Sys2Proof.Machine.execShscanV256X s
  | .shscanH4 => Sys2Proof.Machine.execShscanH4 s
  | .shscanH8 => Sys2Proof.Machine.execShscanH8 s
  | .shscanT => Sys2Proof.Machine.execShscanT s

end Sys2Proof.Machine
end

