-- ==== Sys2Proof/Machine/HostPort.lean ====
section
/-! DEFINITION. What the host and the platform do to the block: the thirteen registers (spec/10_state.md R20 to R35), START and
CLEAR (R22, R25, R36), memory (spec/20_memory.md R83, R84), the reset event (spec/70_reset_and_hazards.md R340). -/

namespace Sys2Proof.Machine

/-- The value a host read of the register at a byte offset returns: CTRL and the reserved offsets read 0, the bits above a register's live bits read 0 (spec/10_state.md R20, R21). -/
def State.readReg (s : State) (off : Nat) : Word :=
  match off with
  | 0x08 => s.status
  | 0x10 => s.cmd.setWidth 64
  | 0x18 => s.width.setWidth 64
  | 0x20 => s.nval.setWidth 64
  | 0x28 => s.src
  | 0x30 => s.dst
  | 0x38 => s.key.setWidth 64
  | 0x40 => s.keys
  | 0x48 => s.nkeys.setWidth 64
  | 0x50 => s.stride
  | 0x58 => s.matchCount.setWidth 64
  | 0x60 => s.errinfo
  | _ => 0

/-- The operand registers as START samples them (spec/10_state.md R25). -/
def State.sample (s : State) : Latches where
  cmd := s.cmd
  w := s.width
  n := s.nval
  src := s.src
  dst := s.dst
  key := s.key
  keys := s.keys
  k := s.nkeys
  stride := s.stride

/-- The acceptance of START: the operands are latched and the result registers cleared (spec/10_state.md R23, R25, R34, R35), the index is 0 (R36). -/
def State.latch (s : State) : State :=
  { s with
    op := s.sample, matchCount := 0, errinfo := 0, errcode := .none, interfered := false
    seq := .run, eng := { s.eng with idx := 0 } }

/-- START while not BUSY: a start-time error ends the command at once, in the order of spec/60_exceptions.md R309, and otherwise the sequencer is in RUN (spec/10_state.md R36). -/
def State.start (s : State) : State :=
  let s := s.latch
  match decode s.op.cmd with
  | none => s.raise (opcodeStop s.op.cmd)
  | some i =>
    match startStop i s.op with
    | some e => s.raise e
    | none => s

/-- A write of CTRL while not BUSY: CLEAR first, then START (spec/10_state.md R22). -/
def State.writeCtrl (s : State) (v : Word) : State :=
  let s := if v.getLsbD 1 then s.clearResults else s
  if v.getLsbD 0 then s.start else s

/-- A host write of the register at a byte offset: ignored while BUSY, on the read-only registers and on the reserved offsets; bits above the live bits are dropped (spec/10_state.md R20, R21, spec/70_reset_and_hazards.md R344). -/
def State.writeReg (s : State) (off : Nat) (v : Word) : State :=
  if s.busy then s
  else
    match off with
    | 0x00 => s.writeCtrl v
    | 0x10 => { s with cmd := v.setWidth 32 }
    | 0x18 => { s with width := v.setWidth 5 }
    | 0x20 => { s with nval := v.setWidth 32 }
    | 0x28 => { s with src := v }
    | 0x30 => { s with dst := v }
    | 0x38 => { s with key := v.setWidth 16 }
    | 0x40 => { s with keys := v }
    | 0x48 => { s with nkeys := v.setWidth 16 }
    | 0x50 => { s with stride := v }
    | _ => s

/-- The write footprint of the command that is running now, empty when none is (spec/20_memory.md R76). -/
def State.busyWrites (s : State) : List Span :=
  if s.busy then
    match decode s.op.cmd with
    | some i => writeSpans i s.op
    | none => []
  else []

/-- The read footprint of the command that is running now, empty when none is (spec/20_memory.md R75). -/
def State.busyReads (s : State) : List Span :=
  if s.busy then
    match decode s.op.cmd with
    | some i => readSpans i s.op
    | none => []
  else []

/-- A host write of one byte of memory; one inside a running command's footprints breaks spec/20_memory.md R84 (notes/assumptions/16.md). -/
def State.hostMemWrite (s : State) (a : Nat) (b : Byte) : State :=
  { s with
    eng := { s.eng with mem := setByte s.eng.mem a b }
    interfered := s.interfered || inSpans s.busyReads a || inSpans s.busyWrites a }

/-- A host read of one byte of memory; a byte of the write footprint of a running command reads as UNSPEC (spec/20_memory.md R84, spec/93 U7). -/
def State.hostMemRead (s : State) (a : Nat) : State :=
  if inSpans s.busyWrites a then
    { s with reads := s.reads ++ [(Config.unspec s.draw (a % addrSpace)).setWidth 64], draw := s.draw + 1 }
  else { s with reads := s.reads ++ [(byteAt s.eng.mem a).setWidth 64] }

/-- The reset event: every register at its reset value, memory unchanged, but the write footprint of a command it cuts UNSPEC (spec/70_reset_and_hazards.md R340, R341). What belongs to the host and the platform stays. -/
def State.resetEvent (s : State) : State :=
  { State.reset with
    eng := Engine.fresh (fillAll s.draw s.busyWrites s.eng.mem)
    host := s.host, reads := s.reads, platform := s.platform, draw := s.draw + 1 }

/-- A register offset that a 64-bit aligned access can have (spec/10_state.md R21). -/
def regAligned (off : Nat) : Bool := decide (off % 8 = 0)

/-- One action of the host or the platform. -/
def State.hostAct (s : State) (a : HostAct) : Host.Outcome State Fault Refusal :=
  match a with
  | .wr off v => if regAligned off then .next (s.writeReg off v) else .fault .unalignedRegisterAccess
  | .rd off =>
    if regAligned off then .next { s with reads := s.reads ++ [s.readReg off] } else .fault .unalignedRegisterAccess
  | .memWr a b => .next (s.hostMemWrite a.toNat b)
  | .memRd a => .next (s.hostMemRead a.toNat)
  | .reset => .next s.resetEvent

/-- Whether the block moves next: it is running and no action of the host arrives before it ends (notes/assumptions/2.md). -/
def State.blockTurn (s : State) : Bool :=
  s.busy && (match s.host with | [] => true | e :: _ => !e.early)

end Sys2Proof.Machine
end

