-- ==== Sys2Proof/Machine/Step.lean ====
section
/-! DEFINITION. One step of the machine: the block's turn runs the latched command whole (spec/70_reset_and_hazards.md R354;
notes/assumptions/1.md), the host's turn does its oldest action (notes/assumptions/2.md). -/

namespace Sys2Proof.Machine

/-- One step. With no command running and no action left nothing changes. A running command whose word is reserved (no reset or START leads there) stops as R302 says. -/
def step (s : State) : Host.Outcome State Fault Refusal :=
  if s.blockTurn then
    match decode s.op.cmd with
    | some i => exec i s
    | none => .next (s.raise (opcodeStop s.op.cmd))
  else
    match s.host with
    | [] => .next s
    | e :: rest => { s with host := rest }.hostAct e.act

/-- The oldest action of the host waits until the running command has ended. -/
def notEarly : List HostEvent → List HostEvent
  | [] => []
  | e :: rest => { e with early := false } :: rest

/-- The state in which START has just been accepted with the command word `w` of `nbits` bits, the bits above them 0, and the block moves next (notes/assumptions/3.md). -/
def State.withFetchWord (s : State) (nbits w : Nat) : State :=
  { { s with cmd := BitVec.ofNat 32 (w % 2 ^ nbits), host := notEarly s.host } with }.latch

end Sys2Proof.Machine
end

