-- ==== Sys2Proof/Safety.lean ====
section
/-! DEFINITION. The words the statements are written in: the spec's buffer formats read from memory (spec/20_memory.md R62 to R68),
a command that may run (R70, R84, R88), how a command ends, the invariant of every state, and the spec's tables of R70 and R107. -/

namespace Sys2Proof

open Machine

/-! ## Buffers (spec/20_memory.md section 2) -/

/-- Stream bit `b` of the compressed buffer at `a` (R62). -/
def streamBit (m : Memory) (a b : Nat) : Bool := (byteAt m (a + b / 8)).getLsbD (b % 8)

/-- Value `i` of the compressed buffer at `a` with code width `w` (R64). -/
def fieldAt (m : Memory) (a w i : Nat) : Nat := bitsOf (fun k => streamBit m a (w * i + k)) w

/-- Entry `i` of the column at `a` (R63). -/
def columnAt (m : Memory) (a i : Nat) : Nat := memRead m (a + 2 * i) 2

/-- Key `x` of the key table at `a` (R68). -/
def keyAt (m : Memory) (a x : Nat) : Nat := memRead m (a + 2 * x) 2

/-- Entry `i` of the decoded array at `a` (R65). -/
def entryAt (m : Memory) (a i : Nat) : Nat := memRead m (a + 4 * i) 4

/-- Bit `i` of the match bitmap at `a` (R66). -/
def bitmapBit (m : Memory) (a i : Nat) : Bool := (byteAt m (a + i / 8)).getLsbD (i % 8)

/-- Bit `i` of predicate `x` of `k` in the interleaved buffer at `a` (R67). -/
def interleavedBit (m : Memory) (a k x i : Nat) : Bool := (byteAt m (a + i / 8 * k + x)).getLsbD (i % 8)

/-- The number of the first `n` values that equal a key (spec/10_state.md R34). -/
def matchesIn (m : Memory) (a w n key : Nat) : Nat := countOf (fun i => decide (fieldAt m a w i = key)) n

/-- Two memories agree on every byte outside the `len` bytes at `base`. -/
def SameOutside (base len : Nat) (m m' : Memory) : Prop :=
  ∀ a, a < addrSpace → ¬(base ≤ a ∧ a < base + len) → byteAt m' a = byteAt m a

/-- Two memories agree on every byte outside the `len` bytes at each of the first `k` places `base + x·stride`. -/
def SameOutsideAll (base stride k len : Nat) (m m' : Memory) : Prop :=
  ∀ a, a < addrSpace → (∀ x, x < k → ¬(base + x * stride ≤ a ∧ a < base + x * stride + len)) → byteAt m' a = byteAt m a

/-! ## How a command runs -/

/-- The start-time checks pass, the contract over the footprints holds (spec/60_exceptions.md R309, spec/20_memory.md R84, R88), and memory is in its canonical form, which `Inv` says of every state a run reaches. -/
structure Ready (i : Instr) (s : State) : Prop where
  starts : startStop i s.op = none
  contract : s.contractHeld i = true
  canonical : s.eng.mem.wf = true

/-- The operand registers, which no command writes (spec/10_state.md R37). -/
structure RegistersKept (s t : State) : Prop where
  cmd : t.cmd = s.cmd
  width : t.width = s.width
  nval : t.nval = s.nval
  src : t.src = s.src
  dst : t.dst = s.dst
  key : t.key = s.key
  keys : t.keys = s.keys
  nkeys : t.nkeys = s.nkeys
  stride : t.stride = s.stride

/-- What no command writes: the operand registers and latches (spec/10_state.md R25, R37), and what belongs to the host and the platform. -/
structure OperandsKept (s t : State) : Prop where
  registers : RegistersKept s t
  op : t.op = s.op
  host : t.host = s.host
  reads : t.reads = s.reads
  interfered : t.interfered = s.interfered
  platform : t.platform = s.platform

/-- A normal end: DONE without ERR, ERRINFO 0, MATCHES `count`, everything of `OperandsKept` kept (spec/10_state.md R23, R34, R35, R37). -/
structure EndedWith (s t : State) (count : Nat) : Prop where
  seq : t.seq = .fin
  errcode : t.errcode = .none
  errinfo : t.errinfo = 0
  count : t.matchCount.toNat = count
  kept : OperandsKept s t

/-- An error stop with a code and a detail (spec/60_exceptions.md R310), everything of `OperandsKept` kept. -/
structure StoppedWith (s t : State) (code : ErrCode) (info : Word) : Prop where
  seq : t.seq = .fin
  errcode : t.errcode = code
  errinfo : t.errinfo = info
  count : t.matchCount = 0
  kept : OperandsKept s t

/-- The units of spec/10_state.md R39 to R45 that a command does not use keep their registers. 93 U11 leaves them any value: DESIGN CHOICE (notes/assumptions/20.md). -/
def UnitsKept (i : Instr) (e f : Engine) : Prop :=
  match i with
  | .pack128 | .pack256 => f.sbc = e.sbc ∧ f.scan = e.scan ∧ f.ssm = e.ssm ∧ f.workers = e.workers
  | .maskgen128 | .maskgen256 =>
    f.bpe = e.bpe ∧ f.sbc = e.sbc ∧ f.ssm = e.ssm ∧ f.workers = e.workers ∧ f.scan.vbu = e.scan.vbu ∧ f.scan.vps = e.scan.vps
  | .decodeS => f.bpe = e.bpe ∧ f.scan = e.scan ∧ f.ssm = e.ssm ∧ f.workers = e.workers
  | .scanS => f.bpe = e.bpe ∧ f.scan.mfl = e.scan.mfl ∧ f.scan.vbu = e.scan.vbu ∧ f.ssm = e.ssm ∧ f.workers = e.workers
  | .decodeV128 | .decodeV256 | .decodeV128M | .decodeV128A | .decodeV128U | .decodeV256V =>
    f.bpe = e.bpe ∧ f.sbc = e.sbc ∧ f.scan.vps = e.scan.vps ∧ f.ssm = e.ssm ∧ f.workers = e.workers
  | .scanV128 | .scanV256 | .scanV128I | .scanV256I | .scanV128U =>
    f.bpe = e.bpe ∧ f.sbc = e.sbc ∧ f.ssm = e.ssm ∧ f.workers = e.workers
  | .shscanV128 | .shscanV256 | .shscanV128X | .shscanV256X =>
    f.bpe = e.bpe ∧ f.sbc = e.sbc ∧ f.scan.vps = e.scan.vps ∧ f.workers = e.workers
  | .shscanH4 | .shscanH8 => f.bpe = e.bpe ∧ f.scan = e.scan ∧ f.workers = e.workers
  | .shscanT => f.bpe = e.bpe ∧ f.sbc = e.sbc ∧ f.scan = e.scan

/-! ## The families -/

/-- The DECODE strategies on the vector pipeline (spec/30_encoding.md R103). -/
def vectorDecodes : List Instr := [.decodeV128, .decodeV256, .decodeV128M, .decodeV128A, .decodeV128U, .decodeV256V]

/-- The SCAN strategies (spec/30_encoding.md R103). -/
def scans : List Instr := [.scanS, .scanV128, .scanV256, .scanV128I, .scanV256I, .scanV128U]

/-- All DECODE strategies (spec/30_encoding.md R103). -/
def decodes : List Instr := .decodeS :: vectorDecodes

/-- The PACK commands (spec/30_encoding.md R103). -/
def packs : List Instr := [.pack128, .pack256]

/-- The MASKGEN commands (spec/30_encoding.md R103). -/
def maskgens : List Instr := [.maskgen128, .maskgen256]

/-- The shared scans with separate bitmaps (spec/30_encoding.md R103). -/
def separateScans : List Instr := [.shscanV128, .shscanV256, .shscanT, .shscanH4, .shscanH8]

/-- The shared scans with the interleaved layout (spec/30_encoding.md R103). -/
def interleavedScans : List Instr := [.shscanV128X, .shscanV256X]

/-! ## The spec's tables, written out once more -/

/-- spec/30_encoding.md R107. -/
def legalWords : List (BitVec 32 × Instr) :=
  [(0x00000001, .pack128), (0x00000101, .pack256), (0x00000002, .maskgen128), (0x00000102, .maskgen256),
   (0x00000003, .decodeS), (0x00000013, .decodeV128), (0x00000113, .decodeV256), (0x00000023, .decodeV128M)] ++
  [(0x00000033, .decodeV128A), (0x00000043, .decodeV128U), (0x00000153, .decodeV256V), (0x00000004, .scanS),
   (0x00000014, .scanV128), (0x00000114, .scanV256), (0x00000024, .scanV128I), (0x00000124, .scanV256I)] ++
  [(0x00000044, .scanV128U), (0x00000015, .shscanV128), (0x00000115, .shscanV256), (0x00000215, .shscanV128X),
   (0x00000315, .shscanV256X), (0x00000025, .shscanH4), (0x00000125, .shscanH8), (0x00000035, .shscanT)]

/-- The alignment spec/20_memory.md R70 requires of SRC, KEYS, DST and STRIDE; 1 where it requires none. -/
structure Alignments where
  src    : Nat
  keys   : Nat
  dst    : Nat
  stride : Nat
  deriving DecidableEq, Repr

/-- spec/20_memory.md R70. -/
def requiredAlignments : Instr → Alignments
  | .pack128 | .pack256 => ⟨2, 1, 8, 1⟩
  | .maskgen128 | .maskgen256 => ⟨1, 1, 4, 1⟩
  | .decodeV128A => ⟨16, 1, 4, 1⟩
  | .decodeS | .decodeV128 | .decodeV256 | .decodeV128M | .decodeV128U | .decodeV256V => ⟨8, 1, 4, 1⟩
  | .scanS | .scanV128 | .scanV256 | .scanV128I | .scanV256I => ⟨8, 1, 1, 1⟩
  | .scanV128U => ⟨8, 1, 4, 1⟩
  | .shscanV128 | .shscanV256 | .shscanT | .shscanV128X | .shscanV256X => ⟨8, 2, 1, 1⟩
  | .shscanH4 | .shscanH8 => ⟨8, 2, 4, 4⟩

/-- The read-write registers and their live bits (spec/10_state.md R20). -/
def operandRegisters : List (Nat × Nat) :=
  [(0x10, 32), (0x18, 5), (0x20, 32), (0x28, 64), (0x30, 64), (0x38, 16), (0x40, 64), (0x48, 16), (0x50, 64)]

/-! ## The invariant -/

/-- What every state a run can reach satisfies: memory is canonical (and in `[0, 2^64)`), an error only stands under DONE (spec/10_state.md R23), ERRINFO and MATCHES are 0 where the spec leaves them 0 (R34, R35), a running command is legal, passed its start-time checks and was latched from registers that have not changed since (R21, R25, R36), the index is at most `N` (R36), and the key store has `K_MAX` entries (spec/45_shared_scanner.md R264). -/
structure Inv (s : State) : Prop where
  mem : s.eng.mem.wf = true
  err : s.errcode ≠ .none → s.seq = .fin
  info : s.errcode = .none → s.errinfo = 0
  count : s.matchCount ≠ 0 → s.seq = .fin ∧ s.errcode = .none
  run : s.seq = .run → s.op = s.sample ∧ ∃ i, decode s.op.cmd = some i ∧ startStop i s.op = none
  idx : s.eng.idx ≤ s.op.n.toNat
  store : s.eng.ssm.keyStore.length = Config.kMax

end Sys2Proof
end

