-- ==== Sys2Proof/Certificates/Slice0/Obligations.lean ====
section
/-! DEFINITION. The statements for the provers. `s.op` are the latched operands a command reads; `Ready i s` is that command `i`
passes its start-time checks in `s`, its footprints keep the contract, and memory is canonical. -/

open Sys2Proof Sys2Proof.Machine

/-! ## Encoding -/

/-- spec/30_encoding.md R107: the decoder reads exactly the 24 words of the table. -/
def Obligations.DecodeReadsExactlyTheTable : Prop :=
  ∀ (w : BitVec 32) (i : Instr), decode w = some i ↔ (w, i) ∈ legalWords

/-- spec/30_encoding.md R101, R103, R107: the word built from a command's fields decodes to the command. -/
def Obligations.DecodeOfEncodeIsIdentity : Prop := ∀ i : Instr, decode (encode i) = some i

/-- spec/30_encoding.md R101, R103, R108: a word is legal exactly when its fields pass the five checks. -/
def Obligations.LegalWordsAreTheWellFormedFields : Prop :=
  ∀ w : BitVec 32, (decode w).isSome = (CmdFields.ofWord w).wf

/-- spec/30_encoding.md R107: a word of each operation, written out. -/
def Obligations.WrittenOutWordsDecode : Prop :=
  decode 0b00000000000000000000000000000001#32 = some .pack128 ∧
  decode 0b00000000000000000000000100000010#32 = some .maskgen256 ∧
  decode 0b00000000000000000000000101010011#32 = some .decodeV256V ∧
  decode 0b00000000000000000000000001000100#32 = some .scanV128U ∧
  decode 0b00000000000000000000001100010101#32 = some .shscanV256X

/-! ## The step -/

/-- When the block moves and its latched word is a command, the step is that command's meaning. That the whole command is one step and when the block moves are the model's choices (notes/assumptions/1.md, 2.md); spec/70_reset_and_hazards.md R354 permits the first. -/
def Obligations.BlockTurnRunsTheLatchedCommand : Prop :=
  ∀ (s : State) (i : Instr), s.blockTurn = true → decode s.op.cmd = some i → step s = exec i s

/-- A command word set to be fetched is what the very next step runs. `withFetchWord` is the model's own construct and choice (notes/assumptions/3.md, with 1.md and 2.md); no rule of the spec speaks of it. -/
def Obligations.FetchedWordRunsNext : Prop :=
  ∀ (s : State) (i : Instr),
    step (s.withFetchWord 32 (encode i).toNat) = exec i (s.withFetchWord 32 (encode i).toNat)

/-- spec/10_state.md R22, R25, R36: START of a legal command with legal operands latches them and enters RUN. -/
def Obligations.StartLatchesAndEntersRun : Prop :=
  ∀ (s : State) (i : Instr) (v : Word) (early : Bool) (rest : List HostEvent),
    s.host = ⟨.wr 0x00 v, early⟩ :: rest → s.busy = false → v.getLsbD 0 = true →
    decode s.cmd = some i → startStop i s.sample = none →
    ∃ t, step s = .next t ∧ t.seq = .run ∧ t.op = s.sample ∧ t.eng.idx = 0 ∧ t.errcode = .none ∧ t.errinfo = 0 ∧
      t.matchCount = 0 ∧ t.eng.mem = s.eng.mem ∧ RegistersKept s t ∧ t.host = rest

/-- spec/60_exceptions.md R302: START with a reserved word stops at once, whatever the operands, and touches no memory. -/
def Obligations.StartOnReservedWordStops : Prop :=
  ∀ (s : State) (v : Word) (early : Bool) (rest : List HostEvent),
    s.host = ⟨.wr 0x00 v, early⟩ :: rest → s.busy = false → v.getLsbD 0 = true → decode s.cmd = none →
    ∃ t, step s = .next t ∧ t.seq = .fin ∧ t.errcode = .opcode ∧ t.errinfo = s.cmd.setWidth 64 ∧ t.matchCount = 0 ∧
      t.eng.mem = s.eng.mem ∧ RegistersKept s t

/-- spec/60_exceptions.md R309, R310: a start-time error of a legal command ends it in the step of START, without RUN. -/
def Obligations.StartTimeErrorStopsAtOnce : Prop :=
  ∀ (s : State) (i : Instr) (e : Stop) (v : Word) (early : Bool) (rest : List HostEvent),
    s.host = ⟨.wr 0x00 v, early⟩ :: rest → s.busy = false → v.getLsbD 0 = true →
    decode s.cmd = some i → startStop i s.sample = some e →
    ∃ t, step s = .next t ∧ t.seq = .fin ∧ t.errcode = e.code ∧ t.errinfo = e.info ∧ t.matchCount = 0 ∧
      t.eng.mem = s.eng.mem ∧ RegistersKept s t

/-! ## Start-time errors -/

/-- spec/60_exceptions.md R304: every command with `W` outside 1 to 16 stops with ERR_W and makes no memory access. That the units keep their registers too is the model's choice (notes/assumptions/20.md). -/
def Obligations.WidthOutOfRangeStopsEveryCommand : Prop :=
  ∀ (i : Instr) (s : State), (s.op.w.toNat < 1 ∨ 16 < s.op.w.toNat) →
    startStop i s.op = some ⟨.width, s.op.w.setWidth 64⟩ ∧
    ∃ t, exec i s = .next t ∧ StoppedWith s t .width (s.op.w.setWidth 64) ∧ t.eng = s.eng

/-- spec/60_exceptions.md R305: every SHSCAN with more than 1024 keys and a legal width stops with ERR_COUNT and makes no memory access. That the units keep their registers too is the model's choice (notes/assumptions/20.md). -/
def Obligations.CountAboveLimitStopsSharedScan : Prop :=
  ∀ (i : Instr) (s : State), i.op = .shscan → 1 ≤ s.op.w.toNat → s.op.w.toNat ≤ 16 → 1024 < s.op.k.toNat →
    startStop i s.op = some ⟨.count, s.op.k.setWidth 64⟩ ∧
    ∃ t, exec i s = .next t ∧ StoppedWith s t .count (s.op.k.setWidth 64) ∧ t.eng = s.eng

/-- spec/20_memory.md R70, spec/60_exceptions.md R306, R309: with a legal width and count, the first misaligned operand in the order SRC, KEYS, DST, STRIDE is the error, and there is none when all are aligned. -/
def Obligations.FirstMisalignedOperandIsReported : Prop :=
  ∀ (i : Instr) (o : Latches), 1 ≤ o.w.toNat → o.w.toNat ≤ 16 → (i.op = .shscan → o.k.toNat ≤ 1024) →
    startStop i o =
      (let a := requiredAlignments i
       if o.src.toNat % a.src ≠ 0 then some ⟨.align, o.src⟩
       else if o.keys.toNat % a.keys ≠ 0 then some ⟨.align, o.keys⟩
       else if o.dst.toNat % a.dst ≠ 0 then some ⟨.align, o.dst⟩
       else if o.stride.toNat % a.stride ≠ 0 then some ⟨.align, o.stride⟩
       else none)

/-- spec/60_exceptions.md R310, R311: a start-time error found when the command runs leaves memory untouched. That the units keep their registers too is the model's choice (notes/assumptions/20.md). -/
def Obligations.StartTimeErrorTouchesNothing : Prop :=
  ∀ (i : Instr) (s : State) (e : Stop), startStop i s.op = some e →
    ∃ t, exec i s = .next t ∧ StoppedWith s t e.code e.info ∧ t.eng = s.eng

/-! ## Registers and the host -/

/-- spec/10_state.md R20, R21: an operand register written while not BUSY reads back its live bits, and nothing else changes that a read can show. That the units keep their registers too is the model's choice (notes/assumptions/20.md). -/
def Obligations.OperandRegisterReadsBackLiveBits : Prop :=
  ∀ (s : State) (off live : Nat) (v : Word) (e f : Bool) (rest : List HostEvent),
    (off, live) ∈ operandRegisters → s.busy = false → s.host = ⟨.wr off v, e⟩ :: ⟨.rd off, f⟩ :: rest →
    ∃ t, Host.Core.run core 2 s = .next t ∧ t.reads = s.reads ++ [BitVec.ofNat 64 (v.toNat % 2 ^ live)] ∧
      (∀ off', off' ≠ off → t.readReg off' = s.readReg off') ∧ t.eng = s.eng ∧ t.host = rest

/-- spec/10_state.md R21: read-only registers and reserved offsets ignore writes; CTRL and reserved offsets read 0. -/
def Obligations.ReadOnlyAndReservedRegisters : Prop :=
  (∀ (s : State) (off : Nat) (v : Word) (e : Bool) (rest : List HostEvent),
    (off = 0x08 ∨ off = 0x58 ∨ off = 0x60 ∨ 0x68 ≤ off) → off % 8 = 0 → s.blockTurn = false →
    s.host = ⟨.wr off v, e⟩ :: rest → step s = .next { s with host := rest }) ∧
  (∀ (s : State) (off : Nat), (off = 0x00 ∨ 0x68 ≤ off) → s.readReg off = 0)

/-- spec/70_reset_and_hazards.md R344, spec/10_state.md R21: while BUSY a register write, START and CLEAR included, changes nothing. -/
def Obligations.WritesWhileBusyAreIgnored : Prop :=
  ∀ (s : State) (off : Nat) (v : Word) (rest : List HostEvent),
    s.busy = true → off % 8 = 0 → s.host = ⟨.wr off v, true⟩ :: rest → step s = .next { s with host := rest }

/-- spec/10_state.md R21: a register read is allowed at any time and has no side effect. -/
def Obligations.RegisterReadsHaveNoSideEffect : Prop :=
  ∀ (s : State) (off : Nat) (e : Bool) (rest : List HostEvent),
    s.blockTurn = false → off % 8 = 0 → s.host = ⟨.rd off, e⟩ :: rest →
    step s = .next { s with host := rest, reads := s.reads ++ [s.readReg off] }

/-- spec/10_state.md R20, R34, R35: what a host read of MATCHES and of ERRINFO returns. -/
def Obligations.ResultRegistersReadTheResults : Prop :=
  ∀ (s : State) (e : Bool) (rest : List HostEvent), s.blockTurn = false →
    (s.host = ⟨.rd 0x58, e⟩ :: rest →
      step s = .next { s with host := rest, reads := s.reads ++ [s.matchCount.setWidth 64] }) ∧
    (s.host = ⟨.rd 0x60, e⟩ :: rest →
      step s = .next { s with host := rest, reads := s.reads ++ [s.errinfo] })

/-- spec/10_state.md R22: a CTRL write with neither START nor CLEAR does nothing, whatever its other bits. -/
def Obligations.CtrlWriteWithoutStartOrClearDoesNothing : Prop :=
  ∀ (s : State) (v : Word) (e : Bool) (rest : List HostEvent),
    s.blockTurn = false → v.getLsbD 0 = false → v.getLsbD 1 = false → s.host = ⟨.wr 0x00 v, e⟩ :: rest →
    step s = .next { s with host := rest }

/-- spec/10_state.md R23: the bits of STATUS. -/
def Obligations.StatusBitsAreBusyDoneErrCode : Prop :=
  ∀ s : State,
    (s.readReg 0x08).getLsbD 0 = decide (s.seq = .run) ∧
    (s.readReg 0x08).getLsbD 1 = decide (s.seq = .fin) ∧
    (s.readReg 0x08).getLsbD 2 = decide (s.errcode ≠ .none) ∧
    (s.readReg 0x08).extractLsb' 8 4 = s.errcode.bits ∧
    (∀ b, (3 ≤ b ∧ b ≤ 7) ∨ 12 ≤ b → (s.readReg 0x08).getLsbD b = false) ∧
    ¬((s.readReg 0x08).getLsbD 0 = true ∧ (s.readReg 0x08).getLsbD 1 = true)

/-- spec/10_state.md R22, R36, spec/60_exceptions.md R312: CLEAR without START while not BUSY. That the units keep their registers too is the model's choice (notes/assumptions/20.md). -/
def Obligations.ClearResetsTheResults : Prop :=
  ∀ (s : State) (v : Word) (e : Bool) (rest : List HostEvent),
    s.busy = false → v.getLsbD 1 = true → v.getLsbD 0 = false → s.host = ⟨.wr 0x00 v, e⟩ :: rest →
    ∃ t, step s = .next t ∧ t.seq = .idle ∧ t.errcode = .none ∧ t.errinfo = 0 ∧ t.matchCount = 0 ∧ RegistersKept s t ∧
      t.op = s.op ∧ t.eng = s.eng ∧ t.host = rest ∧ t.reads = s.reads

/-- spec/70_reset_and_hazards.md R340, R341: the reset event. Memory outside the write footprint of a running command is unchanged. -/
def Obligations.ResetEventLeavesResetValues : Prop :=
  ∀ (s : State) (e : Bool) (rest : List HostEvent), s.blockTurn = false → s.host = ⟨.reset, e⟩ :: rest →
    ∃ t, step s = .next t ∧ t.seq = .idle ∧ t.readReg 0x08 = 0 ∧ t.cmd = 0 ∧ t.width = 0 ∧ t.nval = 0 ∧ t.src = 0 ∧
      t.dst = 0 ∧ t.key = 0 ∧ t.keys = 0 ∧ t.nkeys = 0 ∧ t.stride = 0 ∧ t.matchCount = 0 ∧ t.errinfo = 0 ∧
      (∀ a, a < addrSpace → inSpans s.busyWrites a = false → byteAt t.eng.mem a = byteAt s.eng.mem a) ∧
      (s.busy = false → t.eng.mem = s.eng.mem)

/-- spec/20_memory.md R60, R79, spec/30_encoding.md R111: a byte the host writes while the block is not BUSY is the byte it reads back, and only that byte changes. That this holds at an address of the register window too is the model's choice (notes/assumptions/9.md). -/
def Obligations.HostMemoryWriteReadsBack : Prop :=
  ∀ (s : State) (a : Word) (b : Byte) (e f : Bool) (rest : List HostEvent),
    s.busy = false → s.eng.mem.wf = true → s.host = ⟨.memWr a b, e⟩ :: ⟨.memRd a, f⟩ :: rest →
    ∃ t, Host.Core.run core 2 s = .next t ∧ t.reads = s.reads ++ [b.setWidth 64] ∧
      SameOutside a.toNat 1 s.eng.mem t.eng.mem ∧ RegistersKept s t

/-- The model's choice of notes/assumptions/13.md: a register access that is not 64-bit aligned stops the machine. -/
def Obligations.UnalignedRegisterAccessFaults : Prop :=
  ∀ (s : State) (off : Nat) (v : Word) (e : Bool) (rest : List HostEvent), s.blockTurn = false → off % 8 ≠ 0 →
    (s.host = ⟨.wr off v, e⟩ :: rest ∨ s.host = ⟨.rd off, e⟩ :: rest) → step s = .fault .unalignedRegisterAccess

/-! ## MASKGEN -/

/-- spec/40_mask_factory.md R131, R133 to R138, R142 to R144: the mask dump, set by set and lane by lane. -/
def Obligations.MaskgenWritesTheMaskDump : Prop :=
  ∀ i ∈ maskgens, ∀ s : State, Ready i s →
    ∃ t, exec i s = .next t ∧ EndedWith s t 0 ∧
      SameOutside s.op.dst.toNat (56 * laneCount i) s.eng.mem t.eng.mem ∧
      ∀ q x, q < 2 → x < laneCount i →
        let w := s.op.w.toNat
        let l := laneCount i
        let base := s.op.dst.toNat + 28 * l * q
        let off := q * (l * w % 8) + w * x
        (∀ k, k < 4 → (byteAt t.eng.mem (base + 4 * x + k)).toNat = off / 8 + k) ∧
        memRead t.eng.mem (base + 4 * l + 4 * x) 4 = 2 ^ (32 - w - off % 8) ∧
        memRead t.eng.mem (base + 8 * l + 4 * x) 4 = off % 8 ∧
        memRead t.eng.mem (base + 12 * l + 4 * x) 4 = (2 ^ w - 1) * 2 ^ (off % 8) ∧
        memRead t.eng.mem (base + 16 * l + 4 * x) 4 = 2 ^ w - 1 ∧
        memRead t.eng.mem (base + 20 * l + 4 * x) 4 = s.op.key.toNat * 2 ^ (off % 8) ∧
        memRead t.eng.mem (base + 24 * l + 4 * x) 4 = s.op.key.toNat

/-- spec/40_mask_factory.md R132: every shuffle index lies in the window and every multiplier fits, the largest reached at `W = 1`, `s = 0`. -/
def Obligations.MaskConstantsAreInBounds : Prop :=
  ∀ w l q x, 1 ≤ w → w ≤ 16 → (l = 4 ∨ l = 8) → q < 2 → x < l →
    laneByte w l q x + 3 ≤ (4 + 16 * (l - 1)) / 8 + 3 ∧ (4 + 16 * (l - 1)) / 8 + 3 < 4 * l ∧
    9 ≤ 32 - w - laneShift w l q x ∧ 2 ^ (32 - w - laneShift w l q x) ≤ 2 ^ 31 ∧
    (w = 1 → laneShift w l q x = 0 → 2 ^ (32 - w - laneShift w l q x) = 2 ^ 31)

/-- spec/43_vector_unpacker.md R203, R204, R214: multiply and fixed shift, with or without the clean mask, and the variable shift all leave exactly the field. -/
def Obligations.EveryRealignmentExtractsTheField : Prop :=
  ∀ (w l q x : Nat) (key : Option (BitVec 16)) (raw : Lane),
    1 ≤ w → w ≤ 16 → (l = 4 ∨ l = 8) → q < 2 → x < l →
    (realignMul w (maskSet w l q key) x raw).toNat = raw.toNat / 2 ^ laneShift w l q x % 2 ^ w ∧
    realignMulMask w (maskSet w l q key) x raw = realignMul w (maskSet w l q key) x raw ∧
    realignShift (maskSet w l q key) x raw = realignMul w (maskSet w l q key) x raw

/-- spec/44_vector_scanner.md R231, R232: the in-place compare holds exactly when the realigned field equals the key, for every 16-bit key. -/
def Obligations.CompareFlavoursAgree : Prop :=
  ∀ (w l q x : Nat) (key : BitVec 16) (raw : Lane),
    1 ≤ w → w ≤ 16 → (l = 4 ∨ l = 8) → q < 2 → x < l →
    let ms := maskSet w l q (some key)
    (raw &&& ms.cleanIn.getD x 0 = ms.predIn.getD x 0 ↔ realignMul w ms x raw = ms.predRe.getD x 0) ∧
    (realignMul w ms x raw = ms.predRe.getD x 0 ↔ raw.toNat / 2 ^ laneShift w l q x % 2 ^ w = key.toNat)

/-! ## PACK -/

/-- spec/41_bit_packer.md R166 (with R165 and spec/20_memory.md R76): the compressed buffer, its zero fill, and nothing else. -/
def Obligations.PackWritesTheBitStream : Prop :=
  ∀ i ∈ packs, ∀ s : State, Ready i s →
    (∀ x, x < s.op.n.toNat → columnAt s.eng.mem s.op.src.toNat x < 2 ^ s.op.w.toNat) →
    ∃ t, exec i s = .next t ∧ EndedWith s t 0 ∧
      (∀ x k, x < s.op.n.toNat → k < s.op.w.toNat →
        streamBit t.eng.mem s.op.dst.toNat (s.op.w.toNat * x + k) = (columnAt s.eng.mem s.op.src.toNat x).testBit k) ∧
      (∀ b, s.op.w.toNat * s.op.n.toNat ≤ b → b < 8 * packedSize s.op.w.toNat s.op.n.toNat (laneCount i) →
        streamBit t.eng.mem s.op.dst.toNat b = false) ∧
      SameOutside s.op.dst.toNat (packedSize s.op.w.toNat s.op.n.toNat (laneCount i)) s.eng.mem t.eng.mem

/-- spec/41_bit_packer.md R167, spec/60_exceptions.md R307, R310, R311: PACK stops at the first entry that is too wide; no byte outside its write footprint changes. -/
def Obligations.PackStopsAtTheFirstWideEntry : Prop :=
  ∀ i ∈ packs, ∀ (s : State) (k : Nat), Ready i s → k < s.op.n.toNat →
    2 ^ s.op.w.toNat ≤ columnAt s.eng.mem s.op.src.toNat k →
    (∀ x, x < k → columnAt s.eng.mem s.op.src.toNat x < 2 ^ s.op.w.toNat) →
    ∃ t, exec i s = .next t ∧ StoppedWith s t .value (BitVec.ofNat 64 k) ∧
      SameOutside s.op.dst.toNat (packedSize s.op.w.toNat s.op.n.toNat (laneCount i)) s.eng.mem t.eng.mem

/-! ## DECODE -/

/-- spec/42_scalar_codec.md R183 (with R182, R186): DECODE.S writes exactly the `N` fields, zero-extended. -/
def Obligations.DecodeScalarWritesTheFields : Prop :=
  ∀ s : State, Ready .decodeS s →
    ∃ t, exec .decodeS s = .next t ∧ EndedWith s t 0 ∧
      (∀ x, x < s.op.n.toNat →
        entryAt t.eng.mem s.op.dst.toNat x = fieldAt s.eng.mem s.op.src.toNat s.op.w.toNat x) ∧
      SameOutside s.op.dst.toNat (4 * s.op.n.toNat) s.eng.mem t.eng.mem

/-- spec/43_vector_unpacker.md R205, R207, R209 to R214: every vector strategy writes the `N` fields, and nothing past the end of the last lane-group. -/
def Obligations.DecodeVectorWritesTheFields : Prop :=
  ∀ i ∈ vectorDecodes, ∀ s : State, Ready i s →
    ∃ t, exec i s = .next t ∧ EndedWith s t 0 ∧
      (∀ x, x < s.op.n.toNat →
        entryAt t.eng.mem s.op.dst.toNat x = fieldAt s.eng.mem s.op.src.toNat s.op.w.toNat x) ∧
      SameOutside s.op.dst.toNat (4 * laneCount i * ceilDiv s.op.n.toNat (laneCount i)) s.eng.mem t.eng.mem

/-- spec/43_vector_unpacker.md R215, spec/42_scalar_codec.md R188: all DECODE strategies write the same entries. -/
def Obligations.DecodeStrategiesAgree : Prop :=
  ∀ i ∈ decodes, ∀ i' ∈ decodes, ∀ s : State, Ready i s → Ready i' s →
    ∃ t t', exec i s = .next t ∧ exec i' s = .next t' ∧
      ∀ x, x < s.op.n.toNat → entryAt t.eng.mem s.op.dst.toNat x = entryAt t'.eng.mem s.op.dst.toNat x

/-- spec/41_bit_packer.md R170: whatever PACK wrote, every DECODE strategy it is ready for reads back. -/
def Obligations.DecodeOfPackIsTheColumn : Prop :=
  ∀ p ∈ packs, ∀ d ∈ decodes, ∀ s t s' : State, Ready p s →
    (∀ x, x < s.op.n.toNat → columnAt s.eng.mem s.op.src.toNat x < 2 ^ s.op.w.toNat) →
    exec p s = .next t → Ready d s' → s'.eng.mem = t.eng.mem → s'.op.w = s.op.w → s'.op.n = s.op.n →
    s'.op.src = s.op.dst →
    ∃ t', exec d s' = .next t' ∧
      ∀ x, x < s.op.n.toNat → entryAt t'.eng.mem s'.op.dst.toNat x = columnAt s.eng.mem s.op.src.toNat x

/-! ## SCAN -/

/-- spec/44_vector_scanner.md R237: the bitmap below `N` and the match count; nothing outside the bitmap's granules changes. -/
def Obligations.ScanWritesBitmapAndCount : Prop :=
  ∀ i ∈ scans, ∀ s : State, Ready i s →
    ∃ t, exec i s = .next t ∧
      EndedWith s t (matchesIn s.eng.mem s.op.src.toNat s.op.w.toNat s.op.n.toNat s.op.key.toNat) ∧
      (∀ x, x < s.op.n.toNat → bitmapBit t.eng.mem s.op.dst.toNat x =
        decide (fieldAt s.eng.mem s.op.src.toNat s.op.w.toNat x = s.op.key.toNat)) ∧
      SameOutside s.op.dst.toNat (bitmapLen i s.op.n.toNat) s.eng.mem t.eng.mem

/-- spec/44_vector_scanner.md R243: all SCAN strategies write the same bits and leave the same MATCHES. -/
def Obligations.ScanStrategiesAgree : Prop :=
  ∀ i ∈ scans, ∀ i' ∈ scans, ∀ s : State, Ready i s → Ready i' s →
    ∃ t t', exec i s = .next t ∧ exec i' s = .next t' ∧ t.matchCount = t'.matchCount ∧
      ∀ x, x < s.op.n.toNat → bitmapBit t.eng.mem s.op.dst.toNat x = bitmapBit t'.eng.mem s.op.dst.toNat x

/-- spec/44_vector_scanner.md R244: a key of `2^W` or more matches nothing, and is no error. -/
def Obligations.KeyOutsideTheRangeMatchesNothing : Prop :=
  ∀ i ∈ scans, ∀ s : State, Ready i s → 2 ^ s.op.w.toNat ≤ s.op.key.toNat →
    ∃ t, exec i s = .next t ∧ EndedWith s t 0 ∧
      ∀ x, x < s.op.n.toNat → bitmapBit t.eng.mem s.op.dst.toNat x = false

/-! ## SHSCAN -/

/-- spec/45_shared_scanner.md R261, R263: with separate bitmaps, the bit of every key and value; nothing outside the bitmaps' granules changes. -/
def Obligations.SharedScanWritesEveryBitmap : Prop :=
  ∀ i ∈ separateScans, ∀ s : State, Ready i s →
    ∃ t, exec i s = .next t ∧ EndedWith s t 0 ∧
      (∀ k x, k < s.op.k.toNat → x < s.op.n.toNat →
        bitmapBit t.eng.mem (s.op.dst.toNat + k * s.op.stride.toNat) x =
          decide (fieldAt s.eng.mem s.op.src.toNat s.op.w.toNat x = keyAt s.eng.mem s.op.keys.toNat k)) ∧
      SameOutsideAll s.op.dst.toNat s.op.stride.toNat s.op.k.toNat (bitmapLen i s.op.n.toNat) s.eng.mem t.eng.mem

/-- spec/45_shared_scanner.md R261, R263, R267, R268: the same in the interleaved buffer of `K·ceil(N/8)` bytes. -/
def Obligations.InterleavedScanWritesEveryBit : Prop :=
  ∀ i ∈ interleavedScans, ∀ s : State, Ready i s →
    ∃ t, exec i s = .next t ∧ EndedWith s t 0 ∧
      (∀ k x, k < s.op.k.toNat → x < s.op.n.toNat →
        interleavedBit t.eng.mem s.op.dst.toNat s.op.k.toNat k x =
          decide (fieldAt s.eng.mem s.op.src.toNat s.op.w.toNat x = keyAt s.eng.mem s.op.keys.toNat k)) ∧
      SameOutside s.op.dst.toNat (s.op.k.toNat * ceilDiv s.op.n.toNat 8) s.eng.mem t.eng.mem

/-- spec/45_shared_scanner.md R261: the bits of key `k` of a shared scan, in its own bitmap or in the interleaved buffer, are the bitmap of a single scan with that key. -/
def Obligations.SharedScanEqualsSingleScans : Prop :=
  ∀ i ∈ separateScans ++ interleavedScans, ∀ j ∈ scans, ∀ (s s' : State) (k : Nat),
    Ready i s → Ready j s' → k < s.op.k.toNat →
    s'.eng.mem = s.eng.mem → s'.op.w = s.op.w → s'.op.n = s.op.n → s'.op.src = s.op.src →
    s'.op.key.toNat = keyAt s.eng.mem s.op.keys.toNat k →
    ∃ t t', exec i s = .next t ∧ exec j s' = .next t' ∧
      (i ∈ separateScans → ∀ x, x < s.op.n.toNat →
        bitmapBit t.eng.mem (s.op.dst.toNat + k * s.op.stride.toNat) x = bitmapBit t'.eng.mem s'.op.dst.toNat x) ∧
      (i ∈ interleavedScans → ∀ x, x < s.op.n.toNat →
        interleavedBit t.eng.mem s.op.dst.toNat s.op.k.toNat k x = bitmapBit t'.eng.mem s'.op.dst.toNat x)

/-- spec/45_shared_scanner.md R276: two separate strategies agree bit by bit, two interleaved ones too, and an interleaved one writes the bits of a separate one at its own addresses. -/
def Obligations.SharedScanStrategiesAgree : Prop :=
  (∀ i ∈ separateScans, ∀ i' ∈ separateScans, ∀ s : State, Ready i s → Ready i' s →
    ∃ t t', exec i s = .next t ∧ exec i' s = .next t' ∧
      ∀ k x, k < s.op.k.toNat → x < s.op.n.toNat →
        bitmapBit t.eng.mem (s.op.dst.toNat + k * s.op.stride.toNat) x =
          bitmapBit t'.eng.mem (s.op.dst.toNat + k * s.op.stride.toNat) x) ∧
  (∀ i ∈ interleavedScans, ∀ i' ∈ interleavedScans, ∀ s : State, Ready i s → Ready i' s →
    ∃ t t', exec i s = .next t ∧ exec i' s = .next t' ∧
      ∀ k x, k < s.op.k.toNat → x < s.op.n.toNat →
        interleavedBit t.eng.mem s.op.dst.toNat s.op.k.toNat k x =
          interleavedBit t'.eng.mem s.op.dst.toNat s.op.k.toNat k x) ∧
  (∀ i ∈ separateScans, ∀ i' ∈ interleavedScans, ∀ s : State, Ready i s → Ready i' s →
    ∃ t t', exec i s = .next t ∧ exec i' s = .next t' ∧
      ∀ k x, k < s.op.k.toNat → x < s.op.n.toNat →
        bitmapBit t.eng.mem (s.op.dst.toNat + k * s.op.stride.toNat) x =
          interleavedBit t'.eng.mem s.op.dst.toNat s.op.k.toNat k x)

/-- spec/45_shared_scanner.md R262: with no key a shared scan writes nothing and ends normally. -/
def Obligations.NoKeyIsNoWrite : Prop :=
  ∀ (i : Instr) (s : State), i.op = .shscan → Ready i s → s.op.k.toNat = 0 →
    ∃ t, exec i s = .next t ∧ EndedWith s t 0 ∧ t.eng.mem = s.eng.mem

/-- spec/45_shared_scanner.md R284: memory and the result registers after SHSCAN.T do not depend on NWORK. R284 speaks of the defined bits; that the UNSPEC bits, and the whole footprint outside the contract, are equal too is the model's choice (notes/assumptions/5.md, 6.md, 8.md). -/
def Obligations.ThreadedScanIsIndependentOfWorkers : Prop :=
  ∀ (s : State) (n : Nat),
    ∃ t t', exec .shscanT s = .next t ∧
      exec .shscanT { s with platform := { s.platform with extraWorkers := n } } = .next t' ∧
      t'.eng.mem = t.eng.mem ∧ t'.readReg 0x08 = t.readReg 0x08 ∧ t'.matchCount = t.matchCount ∧ t'.errinfo = t.errinfo

/-! ## Whole-machine rules -/

/-- spec/70_reset_and_hazards.md R353, spec/10_state.md R36, spec/60_exceptions.md R310: every command ends with DONE, normally or by an error. R353 speaks of legal operands; that a command outside its contract (93 U7 to U9) runs and ends too is the model's choice (notes/assumptions/6.md, 16.md), and so is that the end is one step (notes/assumptions/1.md). -/
def Obligations.EveryCommandEnds : Prop := ∀ (i : Instr) (s : State), ∃ t, exec i s = .next t ∧ t.seq = .fin

/-- spec/20_memory.md R76, spec/60_exceptions.md R308, R311: however a command ends, no byte outside its write footprint changes. -/
def Obligations.NothingOutsideTheWriteFootprintChanges : Prop :=
  ∀ (i : Instr) (s t : State) (a : Nat), exec i s = .next t → a < addrSpace → inSpans (writeSpans i s.op) a = false →
    byteAt t.eng.mem a = byteAt s.eng.mem a

/-- spec/10_state.md R37: no command writes an operand register, a latch, or what belongs to the host. -/
def Obligations.NoCommandWritesAnOperandRegister : Prop :=
  ∀ (i : Instr) (s t : State), exec i s = .next t → OperandsKept s t

/-- spec/10_state.md R34: only a SCAN that ends normally leaves a count in MATCHES. -/
def Obligations.OnlyScanLeavesACount : Prop :=
  ∀ (i : Instr) (s t : State), exec i s = .next t → (i.op ≠ .scan ∨ t.errcode ≠ .none) → t.matchCount = 0

/-- The model's choice of notes/assumptions/20.md: a command leaves the registers of the units it does not use (the units of spec/10_state.md R39 to R45; R47 and 93 U11 leave these registers any value between commands). -/
def Obligations.UnusedUnitsKeepTheirRegisters : Prop :=
  ∀ (i : Instr) (s t : State), exec i s = .next t → UnitsKept i s.eng t.eng

/-- spec/60_exceptions.md R300: apart from start-time errors, only PACK ends with an error. -/
def Obligations.OnlyPackErrsDuringItsRun : Prop :=
  ∀ (i : Instr) (s t : State), exec i s = .next t → startStop i s.op = none → t.errcode ≠ .none →
    i.op = .pack ∧ t.errcode = .value ∧ t.errinfo.toNat < s.op.n.toNat

/-- spec/20_memory.md R75, R79: what a command that may run leaves in its write footprint and result registers depends on no byte outside its read footprint. That the UNSPEC bytes of the write footprint are equal too is the model's choice (notes/assumptions/5.md); R79 speaks of the defined outputs. -/
def Obligations.OnlyTheReadFootprintMatters : Prop :=
  ∀ (i : Instr) (s : State) (m : Memory), Ready i s → m.wf = true →
    (∀ a, a < addrSpace → inSpans (readSpans i s.op) a = true → byteAt m a = byteAt s.eng.mem a) →
    ∃ t t', exec i s = .next t ∧ exec i { s with eng := { s.eng with mem := m } } = .next t' ∧
      t'.matchCount = t.matchCount ∧ t'.errcode = t.errcode ∧ t'.errinfo = t.errinfo ∧
      ∀ a, a < addrSpace → inSpans (writeSpans i s.op) a = true → byteAt t'.eng.mem a = byteAt t.eng.mem a

/-- spec/20_memory.md R77: decoded entries, bitmap bits and MATCHES below `N` depend on the stream bits below `W·N` (and, for SHSCAN, the key table) only. -/
def Obligations.PaddingNeverMatters : Prop :=
  ∀ (i : Instr) (s : State) (m : Memory), Ready i s → m.wf = true →
    (∀ b, b < s.op.w.toNat * s.op.n.toNat → streamBit m s.op.src.toNat b = streamBit s.eng.mem s.op.src.toNat b) →
    (i.op = .shscan → ∀ k, k < s.op.k.toNat → keyAt m s.op.keys.toNat k = keyAt s.eng.mem s.op.keys.toNat k) →
    ∃ t t', exec i s = .next t ∧ exec i { s with eng := { s.eng with mem := m } } = .next t' ∧
      (i ∈ decodes → ∀ x, x < s.op.n.toNat →
        entryAt t'.eng.mem s.op.dst.toNat x = entryAt t.eng.mem s.op.dst.toNat x) ∧
      (i ∈ scans → t'.matchCount = t.matchCount ∧ ∀ x, x < s.op.n.toNat →
        bitmapBit t'.eng.mem s.op.dst.toNat x = bitmapBit t.eng.mem s.op.dst.toNat x) ∧
      (i ∈ separateScans → ∀ k x, k < s.op.k.toNat → x < s.op.n.toNat →
        bitmapBit t'.eng.mem (s.op.dst.toNat + k * s.op.stride.toNat) x =
          bitmapBit t.eng.mem (s.op.dst.toNat + k * s.op.stride.toNat) x) ∧
      (i ∈ interleavedScans → ∀ k x, k < s.op.k.toNat → x < s.op.n.toNat →
        interleavedBit t'.eng.mem s.op.dst.toNat s.op.k.toNat k x =
          interleavedBit t.eng.mem s.op.dst.toNat s.op.k.toNat k x)

/-! ## Footprints -/

/-- spec/20_memory.md R75: the region of the windows is exactly their union, and that of DECODE.V128A exactly the union of its block pairs. -/
def Obligations.WindowRegionIsTheUnionOfWindows : Prop :=
  (∀ (o : Latches) (l a : Nat), 1 ≤ o.w.toNat → o.w.toNat ≤ 16 → (l = 4 ∨ l = 8) →
    ((o.src.toNat ≤ a ∧ a < o.src.toNat + (windowSpan o l).len) ↔
      ∃ g, g < ceilDiv o.n.toNat l ∧ o.src.toNat + g * l * o.w.toNat / 8 ≤ a ∧
        a < o.src.toNat + g * l * o.w.toNat / 8 + 4 * l)) ∧
  (∀ (o : Latches) (a : Nat), 1 ≤ o.w.toNat → o.w.toNat ≤ 16 →
    ((o.src.toNat ≤ a ∧ a < o.src.toNat + (blockSpan o).len) ↔
      ∃ g, g < ceilDiv o.n.toNat 4 ∧ o.src.toNat + 16 * (g * 4 * o.w.toNat / 8 / 16) ≤ a ∧
        a < o.src.toNat + 16 * (g * 4 * o.w.toNat / 8 / 16) + 32))

/-- spec/20_memory.md R72 to R75: reads of live words, windows and blocks stay inside the compressed buffer with its padding (32 bytes for DECODE.V128A), writes inside the decoded array, the bitmap, and what PACK writes holds a buffer for its readers. -/
def Obligations.FootprintsFitTheSizes : Prop :=
  ∀ o : Latches, 1 ≤ o.w.toNat → o.w.toNat ≤ 16 →
    (liveSpan o).len ≤ compressedSize o.w.toNat o.n.toNat 4 ∧
    (windowSpan o 4).len ≤ compressedSize o.w.toNat o.n.toNat 4 ∧
    (windowSpan o 8).len ≤ compressedSize o.w.toNat o.n.toNat 8 ∧
    (blockSpan o).len ≤ compressedSize o.w.toNat o.n.toNat 8 ∧
    compressedSize o.w.toNat o.n.toNat 4 ≤ packedSize o.w.toNat o.n.toNat 4 ∧
    compressedSize o.w.toNat o.n.toNat 8 ≤ packedSize o.w.toNat o.n.toNat 8 ∧
    (∀ i ∈ decodes, ∀ r ∈ writeSpans i o, r.len ≤ decodedSize o.n.toNat) ∧
    (∀ i ∈ scans ++ separateScans, ∀ r ∈ writeSpans i o, r.len ≤ bitmapSize o.n.toNat)

/-- spec/20_memory.md R88: where no footprint wraps or meets the register window, bitmaps are apart and the host keeps out, the contract is that no byte is both read and written. -/
def Obligations.ContractIsDisjointness : Prop :=
  ∀ (i : Instr) (s : State), s.interfered = false →
    (∀ r ∈ readSpans i s.op ++ writeSpans i s.op, r.wraps = false ∧ r.apart s.platform.window = true) →
    bitmapsApart i s.op = true →
    (s.contractHeld i = true ↔
      ∀ a, a < addrSpace → ¬(inSpans (readSpans i s.op) a = true ∧ inSpans (writeSpans i s.op) a = true))

/-! ## The invariant -/

/-- The invariant holds after reset (its clauses about `op`, `idx` and the key store rest on the reset values of notes/assumptions/10.md). -/
def Obligations.InvHoldsAtReset : Prop := Inv State.reset

/-- Every step keeps the invariant: memory stays canonical, STATUS stays legal, BUSY commands stay legal and unchanged operands, the index stays within `N`, the key store keeps its `K_MAX` entries (spec/45_shared_scanner.md R264). -/
def Obligations.EveryStepKeepsInv : Prop := ∀ s t : State, Inv s → step s = .next t → Inv t
end

