-- ==== Sys2Proof/Laws/Loops.lean ====
section
/-! SUPPORT. Bounded loops, numbers given by their bits, counts: one lemma for each use. -/

namespace Sys2Proof.Machine

/-- A property that holds at the start and that every pass keeps holds at the end of the loop. -/
theorem upto_inv {α : Type} {f : Nat → α → α} {a : α} (P : Nat → α → Prop) (h0 : P 0 a) {n : Nat}
    (hs : ∀ i x, i < n → P i x → P (i + 1) (f i x)) : P n (upto n f a) := by
  induction n with
  | zero => exact h0
  | succ n ih => exact hs n _ (Nat.lt_succ_self n) (ih fun i x hi => hs i x (Nat.lt_succ_of_lt hi))

/-- Two loops whose passes agree agree. -/
theorem upto_congr {α : Type} {f g : Nat → α → α} {n : Nat} {a : α} (h : ∀ i x, i < n → f i x = g i x) :
    upto n f a = upto n g a := by
  induction n with
  | zero => rfl
  | succ n ih => rw [upto, upto, ih fun i x hi => h i x (Nat.lt_succ_of_lt hi), h n _ (Nat.lt_succ_self n)]

/-- A loop cut in two. -/
theorem upto_add {α : Type} (f : Nat → α → α) (m n : Nat) (a : α) :
    upto (m + n) f a = upto n (fun i => f (m + i)) (upto m f a) := by
  induction n with
  | zero => rfl
  | succ n ih => rw [← Nat.add_assoc, upto, upto, ih]

theorem bitsOf_lt (p : Nat → Bool) (n : Nat) : bitsOf p n < 2 ^ n := by
  induction n with
  | zero => simp [bitsOf]
  | succ n ih => rw [bitsOf, Nat.pow_succ]; split <;> omega

theorem bitsOf_testBit (p : Nat → Bool) (n k : Nat) : (bitsOf p n).testBit k = (decide (k < n) && p k) := by
  induction n with
  | zero => simp [bitsOf]
  | succ n ih =>
    have e : bitsOf p (n + 1) = 2 ^ n * (p n).toNat + bitsOf p n := by
      rw [bitsOf]; cases p n <;> simp [Nat.add_comm]
    rw [e, Nat.testBit_two_pow_mul_add _ (bitsOf_lt p n), ih]
    rcases Nat.lt_trichotomy k n with h | h | h
    · simp [h, Nat.lt_succ_of_lt h]
    · subst h; cases p k <;> simp
    · obtain ⟨d, hd⟩ : ∃ d, k - n = d + 1 := ⟨k - n - 1, by omega⟩
      cases p n <;> simp [show ¬ k < n by omega, show ¬ k < n + 1 by omega, hd, Nat.testBit_succ]

theorem countOf_le (p : Nat → Bool) (n : Nat) : countOf p n ≤ n := by
  induction n with
  | zero => simp [countOf]
  | succ n ih => rw [countOf]; split <;> omega

theorem bitsOf_congr {p q : Nat → Bool} {n : Nat} (h : ∀ k, k < n → p k = q k) : bitsOf p n = bitsOf q n := by
  induction n with
  | zero => rfl
  | succ n ih => rw [bitsOf, bitsOf, ih fun k hk => h k (Nat.lt_succ_of_lt hk), h n (Nat.lt_succ_self n)]

theorem countOf_congr {p q : Nat → Bool} {n : Nat} (h : ∀ k, k < n → p k = q k) : countOf p n = countOf q n := by
  induction n with
  | zero => rfl
  | succ n ih => rw [countOf, countOf, ih fun k hk => h k (Nat.lt_succ_of_lt hk), h n (Nat.lt_succ_self n)]

end Sys2Proof.Machine
end

