-- ==== Sys2Proof/Laws/Memory.lean ====
section
/-! SUPPORT. Memory: read after write, the canonical form, equal contents are equal memories. -/

namespace Sys2Proof.Machine

theorem addrSpace_pos : 0 < addrSpace := by decide

theorem mod_lt_addrSpace (a : Nat) : a % addrSpace < addrSpace := Nat.mod_lt _ addrSpace_pos

/-! ## The list -/

@[simp] theorem Memory.lookup_nil (a : Nat) : Memory.lookup [] a = Memory.unlisted := rfl

@[simp] theorem Memory.lookup_cons (k : Nat) (b : Byte) (m : Memory) (a : Nat) :
    Memory.lookup ((k, b) :: m) a = if k = a then b else Memory.lookup m a := rfl

theorem Memory.wfFrom_cons (lo k : Nat) (b : Byte) (m : Memory) :
    Memory.wfFrom lo ((k, b) :: m) = true ↔
      lo ≤ k ∧ k < addrSpace ∧ b ≠ Memory.unlisted ∧ Memory.wfFrom (k + 1) m = true := by
  simp [Memory.wfFrom, and_assoc]

theorem Memory.wfFrom_mono {lo lo' : Nat} {m : Memory} (h : Memory.wfFrom lo m = true) (hl : lo' ≤ lo) :
    Memory.wfFrom lo' m = true := by
  cases m with
  | nil => rfl
  | cons c m =>
    obtain ⟨k, b⟩ := c
    rw [Memory.wfFrom_cons] at h ⊢
    exact ⟨Nat.le_trans hl h.1, h.2⟩

/-- Below its first key a canonical memory lists nothing. -/
theorem Memory.lookup_below {lo : Nat} {m : Memory} (h : Memory.wfFrom lo m = true) {a : Nat} (ha : a < lo) :
    m.lookup a = Memory.unlisted := by
  induction m generalizing lo with
  | nil => rfl
  | cons c m ih =>
    obtain ⟨k, b⟩ := c
    rw [Memory.wfFrom_cons] at h
    rw [Memory.lookup_cons, if_neg (by omega), ih h.2.2.2 (by omega)]

/-- A write leaves every other byte alone, in any list. -/
theorem Memory.lookup_insert_ne (m : Memory) {a b : Nat} (v : Byte) (hab : a ≠ b) :
    (m.insert a v).lookup b = m.lookup b := by
  induction m with
  | nil => rw [Memory.insert]; split <;> simp [hab]
  | cons c m ih =>
    obtain ⟨k, w⟩ := c
    rw [Memory.insert]
    split
    · split <;> simp [hab]
    · split
      · next h => subst h; split <;> simp [hab]
      · simp [ih]

/-- A write to a canonical memory is read back. -/
theorem Memory.lookup_insert_self {lo : Nat} {m : Memory} (h : Memory.wfFrom lo m = true) (a : Nat) (v : Byte) :
    (m.insert a v).lookup a = v := by
  induction m generalizing lo with
  | nil => rw [Memory.insert]; split <;> simp_all
  | cons c m ih =>
    obtain ⟨k, w⟩ := c
    rw [Memory.wfFrom_cons] at h
    rw [Memory.insert]
    split
    · next hk =>
      split
      · next hv => rw [Memory.lookup_cons, if_neg (by omega), Memory.lookup_below h.2.2.2 (by omega), hv]
      · simp
    · split
      · next hk => subst hk; split
                   · next hv => rw [Memory.lookup_below h.2.2.2 (Nat.lt_succ_self _), hv]
                   · simp
      · next hk => rw [Memory.lookup_cons, if_neg (Ne.symm hk), ih h.2.2.2]

/-- A write keeps the canonical form. -/
theorem Memory.insert_wfFrom {lo : Nat} {m : Memory} (h : Memory.wfFrom lo m = true) {a : Nat} (hlo : lo ≤ a)
    (ha : a < addrSpace) (v : Byte) : Memory.wfFrom lo (m.insert a v) = true := by
  induction m generalizing lo with
  | nil =>
    rw [Memory.insert]
    split
    · rfl
    · next hv => rw [Memory.wfFrom_cons]; exact ⟨hlo, ha, hv, rfl⟩
  | cons c m ih =>
    obtain ⟨k, w⟩ := c
    have h' := h
    rw [Memory.wfFrom_cons] at h
    rw [Memory.insert]
    split
    · next hk =>
      split
      · exact h'
      · next hv =>
        rw [Memory.wfFrom_cons, Memory.wfFrom_cons]
        exact ⟨hlo, ha, hv, hk, h.2.1, h.2.2.1, h.2.2.2⟩
    · split
      · next hk =>
        subst hk
        split
        · exact Memory.wfFrom_mono h.2.2.2 (by omega)
        · next hv => rw [Memory.wfFrom_cons]; exact ⟨h.1, h.2.1, hv, h.2.2.2⟩
      · next hk hne =>
        rw [Memory.wfFrom_cons]
        exact ⟨h.1, h.2.1, h.2.2.1, ih h.2.2.2 (by omega)⟩

/-- Canonical memories that read the same everywhere are the same list. -/
theorem Memory.ext_of_lookup {lo : Nat} {m m' : Memory} (h : Memory.wfFrom lo m = true) (h' : Memory.wfFrom lo m' = true)
    (he : ∀ a, m.lookup a = m'.lookup a) : m = m' := by
  induction m generalizing lo m' with
  | nil =>
    cases m' with
    | nil => rfl
    | cons c m' =>
      obtain ⟨k, b⟩ := c
      rw [Memory.wfFrom_cons] at h'
      exact absurd (by simpa using (he k).symm) h'.2.2.1
  | cons c m ih =>
    obtain ⟨k, b⟩ := c
    rw [Memory.wfFrom_cons] at h
    cases m' with
    | nil => exact absurd (by simpa using he k) h.2.2.1
    | cons c' m' =>
      obtain ⟨k', b'⟩ := c'
      rw [Memory.wfFrom_cons] at h'
      have hk : k = k' := by
        rcases Nat.lt_trichotomy k k' with hlt | heq | hgt
        · have hx := he k
          rw [Memory.lookup_cons, if_pos rfl, Memory.lookup_cons, if_neg (by omega),
            Memory.lookup_below h'.2.2.2 (by omega)] at hx
          exact absurd hx h.2.2.1
        · exact heq
        · have hx := he k'
          rw [Memory.lookup_cons, if_neg (by omega), Memory.lookup_below h.2.2.2 (by omega), Memory.lookup_cons,
            if_pos rfl] at hx
          exact absurd hx.symm h'.2.2.1
      subst hk
      have hb : b = b' := by simpa using he k
      subst hb
      congr 1
      refine ih h.2.2.2 h'.2.2.2 fun a => ?_
      have hx := he a
      by_cases hka : k = a
      · subst hka
        rw [Memory.lookup_below h.2.2.2 (Nat.lt_succ_self _), Memory.lookup_below h'.2.2.2 (Nat.lt_succ_self _)]
      · simpa [hka] using hx

/-! ## Bytes -/

theorem byteAt_mod (m : Memory) (a : Nat) : byteAt m (a % addrSpace) = byteAt m a := by
  simp [byteAt]

/-- A byte write leaves every other address alone. -/
theorem byteAt_setByte_ne (m : Memory) {a b : Nat} (v : Byte) (h : a % addrSpace ≠ b % addrSpace) :
    byteAt (setByte m a v) b = byteAt m b := Memory.lookup_insert_ne m v h

/-- A byte write is read back. -/
theorem byteAt_setByte_self {m : Memory} (h : m.wf = true) {a b : Nat} (v : Byte) (hab : a % addrSpace = b % addrSpace) :
    byteAt (setByte m a v) b = v := by
  rw [byteAt, setByte, ← hab]
  exact Memory.lookup_insert_self (lo := 0) h _ v

/-- A byte write keeps the canonical form. -/
theorem setByte_wf {m : Memory} (h : m.wf = true) (a : Nat) (v : Byte) : (setByte m a v).wf = true :=
  Memory.insert_wfFrom (lo := 0) h (Nat.zero_le _) (mod_lt_addrSpace a) v

/-! ## Wide accesses -/

/-- A wide write keeps the canonical form. -/
theorem memWrite_wf {m : Memory} (h : m.wf = true) (a n v : Nat) : (memWrite m a n v).wf = true := by
  induction n generalizing m a v with
  | zero => exact h
  | succ n ih => exact ih (setByte_wf h _ _) _ _

/-- A wide write that does not reach an address leaves it alone. -/
theorem byteAt_memWrite_ne (m : Memory) {a n b : Nat} (v : Nat) (h : ∀ k, k < n → (a + k) % addrSpace ≠ b % addrSpace) :
    byteAt (memWrite m a n v) b = byteAt m b := by
  induction n generalizing m a v with
  | zero => rfl
  | succ n ih =>
    rw [memWrite, ih _ _ fun k hk => by have := h (k + 1) (by omega); rwa [Nat.add_assoc, Nat.add_comm 1],
      byteAt_setByte_ne m _ (by simpa using h 0 (by omega))]

/-- Byte `k` of a wide write is read back where the write does not wrap onto itself. -/
theorem byteAt_memWrite {m : Memory} (hm : m.wf = true) {a n k : Nat} (v : Nat) (hk : k < n) (hn : n ≤ addrSpace) :
    byteAt (memWrite m a n v) (a + k) = BitVec.ofNat 8 (v / 256 ^ k) := by
  induction n generalizing m a v k with
  | zero => omega
  | succ n ih =>
    rw [memWrite]
    cases k with
    | zero =>
      rw [byteAt_memWrite_ne _ _ fun k hk => ?_, Nat.add_zero, byteAt_setByte_self hm _ rfl]
      · simp
      · unfold addrSpace at *; omega
    | succ k =>
      rw [show a + (k + 1) = a + 1 + k by omega, ih (setByte_wf hm _ _) _ (by omega) (by omega), Nat.div_div_eq_div_mul,
        ← Nat.pow_succ']

theorem memRead_lt (m : Memory) (a n : Nat) : memRead m a n < 256 ^ n := by
  induction n generalizing a with
  | zero => simp [memRead]
  | succ n ih =>
    have h := ih (a + 1)
    have hb := (byteAt m a).isLt
    rw [memRead, Nat.pow_succ]
    omega

/-- Wide reads of memories that agree on the bytes read agree. -/
theorem memRead_congr {m m' : Memory} {a n : Nat} (h : ∀ k, k < n → byteAt m (a + k) = byteAt m' (a + k)) :
    memRead m a n = memRead m' a n := by
  induction n generalizing a with
  | zero => rfl
  | succ n ih =>
    have h0 : byteAt m a = byteAt m' a := by simpa using h 0 (by omega)
    rw [memRead, memRead, h0, ih fun k hk => by have := h (k + 1) (by omega); rwa [Nat.add_assoc, Nat.add_comm 1]]

/-- A bit of a wide read is a bit of one of its bytes. -/
theorem memRead_testBit (m : Memory) (a n b : Nat) :
    (memRead m a n).testBit b = (decide (b < 8 * n) && (byteAt m (a + b / 8)).getLsbD (b % 8)) := by
  induction n generalizing a b with
  | zero => simp [memRead]
  | succ n ih =>
    have hb := (byteAt m a).isLt
    rw [memRead, Nat.add_comm, show (256 : Nat) = 2 ^ 8 from rfl, Nat.testBit_two_pow_mul_add _ hb]
    by_cases h : b < 8
    · rw [if_pos h, Nat.div_eq_of_lt h, Nat.mod_eq_of_lt h]
      simp [BitVec.getLsbD, show b < 8 * (n + 1) by omega]
    · rw [if_neg h, ih, show a + 1 + (b - 8) / 8 = a + b / 8 by omega, show (b - 8) % 8 = b % 8 by omega]
      congr 1
      simp only [decide_eq_decide]
      omega

/-- What has just been written wide is read back wide. -/
theorem memRead_memWrite {m : Memory} (hm : m.wf = true) (a n v : Nat) (hn : n ≤ addrSpace) :
    memRead (memWrite m a n v) a n = v % 256 ^ n := by
  induction n generalizing m a v with
  | zero => simp [memRead, Nat.mod_one]
  | succ n ih =>
    have h0 := byteAt_memWrite hm (a := a) v (Nat.succ_pos n) hn
    rw [memRead, memWrite, ih (setByte_wf hm _ _) _ _ (by omega)]
    rw [memWrite] at h0
    rw [show byteAt (memWrite (setByte m a (BitVec.ofNat 8 v)) (a + 1) n (v / 256)) a = BitVec.ofNat 8 v by simpa using h0]
    rw [BitVec.toNat_ofNat, show (256 : Nat) ^ (n + 1) = 256 * 256 ^ n from Nat.pow_succ', Nat.mod_mul]

/-! ## Regions -/

/-- Where a region does not wrap, belonging to it is the plain interval. -/
theorem Span.has_iff {r : Span} (hw : r.base + r.len ≤ addrSpace) {a : Nat} (ha : a < addrSpace) :
    r.has a = true ↔ r.base ≤ a ∧ a < r.base + r.len := by
  unfold Span.has addrSpace at *
  simp only [decide_eq_true_eq]
  omega

/-- Filling a region keeps the canonical form. -/
theorem fillUnspec_wf (draw : Nat) (r : Span) {m : Memory} (h : m.wf = true) : (fillUnspec draw r m).wf = true :=
  upto_inv (fun _ (m : Memory) => m.wf = true) h fun _ _ _ h => setByte_wf h _ _

theorem fillAll_wf (draw : Nat) (rs : List Span) {m : Memory} (h : m.wf = true) : (fillAll draw rs m).wf = true := by
  induction rs generalizing m with
  | nil => exact h
  | cons r rs ih => exact ih (fillUnspec_wf draw r h)

/-- Filling a region leaves every address outside it alone. -/
theorem byteAt_fillUnspec_ne (draw : Nat) (r : Span) (m : Memory) {a : Nat} (h : r.has a = false) :
    byteAt (fillUnspec draw r m) a = byteAt m a := by
  refine upto_inv (fun _ m' => byteAt m' a = byteAt m a) rfl fun k m' hk h' => ?_
  rw [byteAt_setByte_ne _ _ fun he => ?_, h']
  unfold Span.has addrSpace at *
  simp only [decide_eq_false_iff_not] at h
  omega

theorem byteAt_fillAll_ne (draw : Nat) (rs : List Span) (m : Memory) {a : Nat} (h : inSpans rs a = false) :
    byteAt (fillAll draw rs m) a = byteAt m a := by
  induction rs generalizing m with
  | nil => rfl
  | cons r rs ih =>
    simp only [inSpans, List.any_cons, Bool.or_eq_false_iff] at h
    rw [fillAll, ih _ h.2, byteAt_fillUnspec_ne draw r m h.1]

end Sys2Proof.Machine
end

