-- ==== Sys2Proof/Laws/State.lean ====
section
/-! SUPPORT. One lemma per field of State and per named update of it, true by rfl. -/

namespace Sys2Proof.Machine

@[simp] theorem State.raise_cmd (s : State) (x : Stop) : (s.raise x).cmd = s.cmd := rfl
@[simp] theorem State.raise_width (s : State) (x : Stop) : (s.raise x).width = s.width := rfl
@[simp] theorem State.raise_nval (s : State) (x : Stop) : (s.raise x).nval = s.nval := rfl
@[simp] theorem State.raise_src (s : State) (x : Stop) : (s.raise x).src = s.src := rfl
@[simp] theorem State.raise_dst (s : State) (x : Stop) : (s.raise x).dst = s.dst := rfl
@[simp] theorem State.raise_key (s : State) (x : Stop) : (s.raise x).key = s.key := rfl
@[simp] theorem State.raise_keys (s : State) (x : Stop) : (s.raise x).keys = s.keys := rfl
@[simp] theorem State.raise_nkeys (s : State) (x : Stop) : (s.raise x).nkeys = s.nkeys := rfl
@[simp] theorem State.raise_stride (s : State) (x : Stop) : (s.raise x).stride = s.stride := rfl
@[simp] theorem State.raise_matchCount (s : State) (x : Stop) : (s.raise x).matchCount = 0 := rfl
@[simp] theorem State.raise_errinfo (s : State) (x : Stop) : (s.raise x).errinfo = x.info := rfl
@[simp] theorem State.raise_errcode (s : State) (x : Stop) : (s.raise x).errcode = x.code := rfl
@[simp] theorem State.raise_seq (s : State) (x : Stop) : (s.raise x).seq = .fin := rfl
@[simp] theorem State.raise_op (s : State) (x : Stop) : (s.raise x).op = s.op := rfl
@[simp] theorem State.raise_eng (s : State) (x : Stop) : (s.raise x).eng = s.eng := rfl
@[simp] theorem State.raise_host (s : State) (x : Stop) : (s.raise x).host = s.host := rfl
@[simp] theorem State.raise_reads (s : State) (x : Stop) : (s.raise x).reads = s.reads := rfl
@[simp] theorem State.raise_interfered (s : State) (x : Stop) : (s.raise x).interfered = s.interfered := rfl
@[simp] theorem State.raise_draw (s : State) (x : Stop) : (s.raise x).draw = s.draw + 1 := rfl
@[simp] theorem State.raise_platform (s : State) (x : Stop) : (s.raise x).platform = s.platform := rfl

@[simp] theorem State.finish_cmd (s : State) (n : BitVec 32) : (s.finish n).cmd = s.cmd := rfl
@[simp] theorem State.finish_width (s : State) (n : BitVec 32) : (s.finish n).width = s.width := rfl
@[simp] theorem State.finish_nval (s : State) (n : BitVec 32) : (s.finish n).nval = s.nval := rfl
@[simp] theorem State.finish_src (s : State) (n : BitVec 32) : (s.finish n).src = s.src := rfl
@[simp] theorem State.finish_dst (s : State) (n : BitVec 32) : (s.finish n).dst = s.dst := rfl
@[simp] theorem State.finish_key (s : State) (n : BitVec 32) : (s.finish n).key = s.key := rfl
@[simp] theorem State.finish_keys (s : State) (n : BitVec 32) : (s.finish n).keys = s.keys := rfl
@[simp] theorem State.finish_nkeys (s : State) (n : BitVec 32) : (s.finish n).nkeys = s.nkeys := rfl
@[simp] theorem State.finish_stride (s : State) (n : BitVec 32) : (s.finish n).stride = s.stride := rfl
@[simp] theorem State.finish_matchCount (s : State) (n : BitVec 32) : (s.finish n).matchCount = n := rfl
@[simp] theorem State.finish_errinfo (s : State) (n : BitVec 32) : (s.finish n).errinfo = 0 := rfl
@[simp] theorem State.finish_errcode (s : State) (n : BitVec 32) : (s.finish n).errcode = .none := rfl
@[simp] theorem State.finish_seq (s : State) (n : BitVec 32) : (s.finish n).seq = .fin := rfl
@[simp] theorem State.finish_op (s : State) (n : BitVec 32) : (s.finish n).op = s.op := rfl
@[simp] theorem State.finish_eng (s : State) (n : BitVec 32) : (s.finish n).eng = s.eng := rfl
@[simp] theorem State.finish_host (s : State) (n : BitVec 32) : (s.finish n).host = s.host := rfl
@[simp] theorem State.finish_reads (s : State) (n : BitVec 32) : (s.finish n).reads = s.reads := rfl
@[simp] theorem State.finish_interfered (s : State) (n : BitVec 32) : (s.finish n).interfered = s.interfered := rfl
@[simp] theorem State.finish_draw (s : State) (n : BitVec 32) : (s.finish n).draw = s.draw + 1 := rfl
@[simp] theorem State.finish_platform (s : State) (n : BitVec 32) : (s.finish n).platform = s.platform := rfl

@[simp] theorem State.clearResults_cmd (s : State) : (s.clearResults).cmd = s.cmd := rfl
@[simp] theorem State.clearResults_width (s : State) : (s.clearResults).width = s.width := rfl
@[simp] theorem State.clearResults_nval (s : State) : (s.clearResults).nval = s.nval := rfl
@[simp] theorem State.clearResults_src (s : State) : (s.clearResults).src = s.src := rfl
@[simp] theorem State.clearResults_dst (s : State) : (s.clearResults).dst = s.dst := rfl
@[simp] theorem State.clearResults_key (s : State) : (s.clearResults).key = s.key := rfl
@[simp] theorem State.clearResults_keys (s : State) : (s.clearResults).keys = s.keys := rfl
@[simp] theorem State.clearResults_nkeys (s : State) : (s.clearResults).nkeys = s.nkeys := rfl
@[simp] theorem State.clearResults_stride (s : State) : (s.clearResults).stride = s.stride := rfl
@[simp] theorem State.clearResults_matchCount (s : State) : (s.clearResults).matchCount = 0 := rfl
@[simp] theorem State.clearResults_errinfo (s : State) : (s.clearResults).errinfo = 0 := rfl
@[simp] theorem State.clearResults_errcode (s : State) : (s.clearResults).errcode = .none := rfl
@[simp] theorem State.clearResults_seq (s : State) : (s.clearResults).seq = .idle := rfl
@[simp] theorem State.clearResults_op (s : State) : (s.clearResults).op = s.op := rfl
@[simp] theorem State.clearResults_eng (s : State) : (s.clearResults).eng = s.eng := rfl
@[simp] theorem State.clearResults_host (s : State) : (s.clearResults).host = s.host := rfl
@[simp] theorem State.clearResults_reads (s : State) : (s.clearResults).reads = s.reads := rfl
@[simp] theorem State.clearResults_interfered (s : State) : (s.clearResults).interfered = s.interfered := rfl
@[simp] theorem State.clearResults_draw (s : State) : (s.clearResults).draw = s.draw := rfl
@[simp] theorem State.clearResults_platform (s : State) : (s.clearResults).platform = s.platform := rfl

@[simp] theorem State.withEngine_cmd (s : State) (e : Engine) : (s.withEngine e).cmd = s.cmd := rfl
@[simp] theorem State.withEngine_width (s : State) (e : Engine) : (s.withEngine e).width = s.width := rfl
@[simp] theorem State.withEngine_nval (s : State) (e : Engine) : (s.withEngine e).nval = s.nval := rfl
@[simp] theorem State.withEngine_src (s : State) (e : Engine) : (s.withEngine e).src = s.src := rfl
@[simp] theorem State.withEngine_dst (s : State) (e : Engine) : (s.withEngine e).dst = s.dst := rfl
@[simp] theorem State.withEngine_key (s : State) (e : Engine) : (s.withEngine e).key = s.key := rfl
@[simp] theorem State.withEngine_keys (s : State) (e : Engine) : (s.withEngine e).keys = s.keys := rfl
@[simp] theorem State.withEngine_nkeys (s : State) (e : Engine) : (s.withEngine e).nkeys = s.nkeys := rfl
@[simp] theorem State.withEngine_stride (s : State) (e : Engine) : (s.withEngine e).stride = s.stride := rfl
@[simp] theorem State.withEngine_matchCount (s : State) (e : Engine) : (s.withEngine e).matchCount = s.matchCount := rfl
@[simp] theorem State.withEngine_errinfo (s : State) (e : Engine) : (s.withEngine e).errinfo = s.errinfo := rfl
@[simp] theorem State.withEngine_errcode (s : State) (e : Engine) : (s.withEngine e).errcode = s.errcode := rfl
@[simp] theorem State.withEngine_seq (s : State) (e : Engine) : (s.withEngine e).seq = s.seq := rfl
@[simp] theorem State.withEngine_op (s : State) (e : Engine) : (s.withEngine e).op = s.op := rfl
@[simp] theorem State.withEngine_eng (s : State) (e : Engine) : (s.withEngine e).eng = e := rfl
@[simp] theorem State.withEngine_host (s : State) (e : Engine) : (s.withEngine e).host = s.host := rfl
@[simp] theorem State.withEngine_reads (s : State) (e : Engine) : (s.withEngine e).reads = s.reads := rfl
@[simp] theorem State.withEngine_interfered (s : State) (e : Engine) : (s.withEngine e).interfered = s.interfered := rfl
@[simp] theorem State.withEngine_draw (s : State) (e : Engine) : (s.withEngine e).draw = s.draw := rfl
@[simp] theorem State.withEngine_platform (s : State) (e : Engine) : (s.withEngine e).platform = s.platform := rfl

@[simp] theorem State.latch_cmd (s : State) : (s.latch).cmd = s.cmd := rfl
@[simp] theorem State.latch_width (s : State) : (s.latch).width = s.width := rfl
@[simp] theorem State.latch_nval (s : State) : (s.latch).nval = s.nval := rfl
@[simp] theorem State.latch_src (s : State) : (s.latch).src = s.src := rfl
@[simp] theorem State.latch_dst (s : State) : (s.latch).dst = s.dst := rfl
@[simp] theorem State.latch_key (s : State) : (s.latch).key = s.key := rfl
@[simp] theorem State.latch_keys (s : State) : (s.latch).keys = s.keys := rfl
@[simp] theorem State.latch_nkeys (s : State) : (s.latch).nkeys = s.nkeys := rfl
@[simp] theorem State.latch_stride (s : State) : (s.latch).stride = s.stride := rfl
@[simp] theorem State.latch_matchCount (s : State) : (s.latch).matchCount = 0 := rfl
@[simp] theorem State.latch_errinfo (s : State) : (s.latch).errinfo = 0 := rfl
@[simp] theorem State.latch_errcode (s : State) : (s.latch).errcode = .none := rfl
@[simp] theorem State.latch_seq (s : State) : (s.latch).seq = .run := rfl
@[simp] theorem State.latch_op (s : State) : (s.latch).op = s.sample := rfl
@[simp] theorem State.latch_eng (s : State) : (s.latch).eng = { s.eng with idx := 0 } := rfl
@[simp] theorem State.latch_host (s : State) : (s.latch).host = s.host := rfl
@[simp] theorem State.latch_reads (s : State) : (s.latch).reads = s.reads := rfl
@[simp] theorem State.latch_interfered (s : State) : (s.latch).interfered = false := rfl
@[simp] theorem State.latch_draw (s : State) : (s.latch).draw = s.draw := rfl
@[simp] theorem State.latch_platform (s : State) : (s.latch).platform = s.platform := rfl

@[simp] theorem State.hostMemWrite_cmd (s : State) (a : Nat) (b : Byte) : (s.hostMemWrite a b).cmd = s.cmd := rfl
@[simp] theorem State.hostMemWrite_width (s : State) (a : Nat) (b : Byte) : (s.hostMemWrite a b).width = s.width := rfl
@[simp] theorem State.hostMemWrite_nval (s : State) (a : Nat) (b : Byte) : (s.hostMemWrite a b).nval = s.nval := rfl
@[simp] theorem State.hostMemWrite_src (s : State) (a : Nat) (b : Byte) : (s.hostMemWrite a b).src = s.src := rfl
@[simp] theorem State.hostMemWrite_dst (s : State) (a : Nat) (b : Byte) : (s.hostMemWrite a b).dst = s.dst := rfl
@[simp] theorem State.hostMemWrite_key (s : State) (a : Nat) (b : Byte) : (s.hostMemWrite a b).key = s.key := rfl
@[simp] theorem State.hostMemWrite_keys (s : State) (a : Nat) (b : Byte) : (s.hostMemWrite a b).keys = s.keys := rfl
@[simp] theorem State.hostMemWrite_nkeys (s : State) (a : Nat) (b : Byte) : (s.hostMemWrite a b).nkeys = s.nkeys := rfl
@[simp] theorem State.hostMemWrite_stride (s : State) (a : Nat) (b : Byte) : (s.hostMemWrite a b).stride = s.stride := rfl
@[simp] theorem State.hostMemWrite_matchCount (s : State) (a : Nat) (b : Byte) : (s.hostMemWrite a b).matchCount = s.matchCount := rfl
@[simp] theorem State.hostMemWrite_errinfo (s : State) (a : Nat) (b : Byte) : (s.hostMemWrite a b).errinfo = s.errinfo := rfl
@[simp] theorem State.hostMemWrite_errcode (s : State) (a : Nat) (b : Byte) : (s.hostMemWrite a b).errcode = s.errcode := rfl
@[simp] theorem State.hostMemWrite_seq (s : State) (a : Nat) (b : Byte) : (s.hostMemWrite a b).seq = s.seq := rfl
@[simp] theorem State.hostMemWrite_op (s : State) (a : Nat) (b : Byte) : (s.hostMemWrite a b).op = s.op := rfl
@[simp] theorem State.hostMemWrite_eng (s : State) (a : Nat) (b : Byte) : (s.hostMemWrite a b).eng = { s.eng with mem := setByte s.eng.mem a b } := rfl
@[simp] theorem State.hostMemWrite_host (s : State) (a : Nat) (b : Byte) : (s.hostMemWrite a b).host = s.host := rfl
@[simp] theorem State.hostMemWrite_reads (s : State) (a : Nat) (b : Byte) : (s.hostMemWrite a b).reads = s.reads := rfl
@[simp] theorem State.hostMemWrite_interfered (s : State) (a : Nat) (b : Byte) : (s.hostMemWrite a b).interfered = (s.interfered || inSpans s.busyReads a || inSpans s.busyWrites a) := rfl
@[simp] theorem State.hostMemWrite_draw (s : State) (a : Nat) (b : Byte) : (s.hostMemWrite a b).draw = s.draw := rfl
@[simp] theorem State.hostMemWrite_platform (s : State) (a : Nat) (b : Byte) : (s.hostMemWrite a b).platform = s.platform := rfl

@[simp] theorem State.resetEvent_cmd (s : State) : (s.resetEvent).cmd = 0 := rfl
@[simp] theorem State.resetEvent_width (s : State) : (s.resetEvent).width = 0 := rfl
@[simp] theorem State.resetEvent_nval (s : State) : (s.resetEvent).nval = 0 := rfl
@[simp] theorem State.resetEvent_src (s : State) : (s.resetEvent).src = 0 := rfl
@[simp] theorem State.resetEvent_dst (s : State) : (s.resetEvent).dst = 0 := rfl
@[simp] theorem State.resetEvent_key (s : State) : (s.resetEvent).key = 0 := rfl
@[simp] theorem State.resetEvent_keys (s : State) : (s.resetEvent).keys = 0 := rfl
@[simp] theorem State.resetEvent_nkeys (s : State) : (s.resetEvent).nkeys = 0 := rfl
@[simp] theorem State.resetEvent_stride (s : State) : (s.resetEvent).stride = 0 := rfl
@[simp] theorem State.resetEvent_matchCount (s : State) : (s.resetEvent).matchCount = 0 := rfl
@[simp] theorem State.resetEvent_errinfo (s : State) : (s.resetEvent).errinfo = 0 := rfl
@[simp] theorem State.resetEvent_errcode (s : State) : (s.resetEvent).errcode = .none := rfl
@[simp] theorem State.resetEvent_seq (s : State) : (s.resetEvent).seq = .idle := rfl
@[simp] theorem State.resetEvent_op (s : State) : (s.resetEvent).op = ⟨0, 0, 0, 0, 0, 0, 0, 0, 0⟩ := rfl
@[simp] theorem State.resetEvent_eng (s : State) : (s.resetEvent).eng = Engine.fresh (fillAll s.draw s.busyWrites s.eng.mem) := rfl
@[simp] theorem State.resetEvent_host (s : State) : (s.resetEvent).host = s.host := rfl
@[simp] theorem State.resetEvent_reads (s : State) : (s.resetEvent).reads = s.reads := rfl
@[simp] theorem State.resetEvent_interfered (s : State) : (s.resetEvent).interfered = false := rfl
@[simp] theorem State.resetEvent_draw (s : State) : (s.resetEvent).draw = s.draw + 1 := rfl
@[simp] theorem State.resetEvent_platform (s : State) : (s.resetEvent).platform = s.platform := rfl

@[simp] theorem State.job_op (s : State) : s.job.op = s.op := rfl
@[simp] theorem State.job_draw (s : State) : s.job.draw = s.draw := rfl
@[simp] theorem State.job_nwork (s : State) : s.job.nwork = s.platform.extraWorkers + 1 := rfl

@[simp] theorem State.conclude_done (s : State) (e : Engine) (n : BitVec 32) :
    s.conclude (.done e n) = (s.withEngine e).finish n := rfl
@[simp] theorem State.conclude_stop (s : State) (e : Engine) (k : Nat) :
    s.conclude (.stop e k) = (s.withEngine e).raise ⟨.value, BitVec.ofNat 64 k⟩ := rfl

@[simp] theorem Engine.fresh_mem (m : Memory) : (Engine.fresh m).mem = m := rfl
@[simp] theorem Engine.fresh_idx (m : Memory) : (Engine.fresh m).idx = 0 := rfl

end Sys2Proof.Machine
end

