-- ==== Sys2Proof/Laws/Command.lean ====
section
/-! SUPPORT. What a command and a step can do, each said once. -/

namespace Sys2Proof.Machine

/-- The body of each command. -/
def bodyOf : Instr → Job → Engine → RunEnd
  | .pack128 => packBody .pack128
  | .pack256 => packBody .pack256
  | .maskgen128 => maskgenBody 4
  | .maskgen256 => maskgenBody 8
  | .decodeS => decodeScalarBody
  | .decodeV128 => decodeVectorBody 4 (fun j => loadUnaligned j 4) realignMul
  | .decodeV256 => decodeVectorBody 8 (fun j => loadUnaligned j 8) realignMul
  | .decodeV128M => decodeVectorBody 4 (fun j => loadUnaligned j 4) realignMulMask
  | .decodeV128A => decodeVectorBody 4 loadAligned realignMul
  | .decodeV128U => decodeUnrolledBody
  | .decodeV256V => decodeVectorBody 8 (fun j => loadUnaligned j 8) (fun _ => realignShift)
  | .scanS => scanScalarBody
  | .scanV128 => scanVectorBody 4 1 compareRealigned
  | .scanV256 => scanVectorBody 8 1 compareRealigned
  | .scanV128I => scanVectorBody 4 1 compareInPlace
  | .scanV256I => scanVectorBody 8 1 compareInPlace
  | .scanV128U => scanVectorBody 4 4 compareRealigned
  | .shscanV128 => verticalBody 4 false
  | .shscanV256 => verticalBody 8 false
  | .shscanV128X => verticalBody 4 true
  | .shscanV256X => verticalBody 8 true
  | .shscanH4 => horizontalBody 4
  | .shscanH8 => horizontalBody 8
  | .shscanT => threadedBody

/-- Every command runs under the one driver. -/
theorem exec_eq_command (i : Instr) (s : State) : exec i s = command i s (bodyOf i) := by cases i <;> rfl

/-- The three ways a command ends: at a start-time check, outside its contract, or through its body. -/
theorem command_cases (i : Instr) (s : State) (body : Job → Engine → RunEnd) :
    (∃ x, startStop i s.op = some x ∧ command i s body = .next (s.raise x)) ∨
    (startStop i s.op = none ∧ s.contractHeld i = false ∧ command i s body = .next (s.conclude (s.outOfContract i))) ∨
    (startStop i s.op = none ∧ s.contractHeld i = true ∧ command i s body = .next (s.conclude (body s.job s.eng))) := by
  unfold command
  cases h : startStop i s.op with
  | some x => exact .inl ⟨x, rfl, rfl⟩
  | none =>
    cases hc : s.contractHeld i
    · exact .inr (.inl ⟨rfl, rfl, rfl⟩)
    · exact .inr (.inr ⟨rfl, rfl, rfl⟩)

/-- A command that may run concludes its body. -/
theorem exec_ready {i : Instr} {s : State} (h : Ready i s) : exec i s = .next (s.conclude (bodyOf i s.job s.eng)) := by
  rw [exec_eq_command, command, h.starts]
  simp [h.contract]

/-- What a command leaves outside its contract: its memory is the filled one, the rest of the engine but the index is kept. -/
theorem outOfContract_cases (i : Instr) (s : State) :
    (∃ n, s.outOfContract i = .done { s.eng with mem := fillAll s.draw (writeSpans i s.op) s.eng.mem } n
      ∧ (i.op ≠ .scan → n = 0)) ∨
    (∃ k, k < s.op.n.toNat ∧ i.op = .pack
      ∧ s.outOfContract i = .stop { s.eng with mem := fillAll s.draw (writeSpans i s.op) s.eng.mem } k) := by
  unfold State.outOfContract
  cases hop : i.op <;> simp only
  · split
    · next h => exact .inr ⟨_, Nat.mod_lt _ h.1, trivial, rfl⟩
    · exact .inl ⟨_, rfl, fun _ => rfl⟩
  · exact .inl ⟨_, rfl, fun _ => rfl⟩
  · exact .inl ⟨_, rfl, fun _ => rfl⟩
  · exact .inl ⟨_, rfl, fun h => absurd rfl h⟩
  · exact .inl ⟨_, rfl, fun _ => rfl⟩

/-- A start-time error stop: which one, in the order of the checks. -/
theorem startStop_cases {i : Instr} {o : Latches} {x : Stop} (h : startStop i o = some x) :
    ((o.w.toNat < 1 ∨ 16 < o.w.toNat) ∧ x = ⟨.width, o.w.setWidth 64⟩) ∨
    (1 ≤ o.w.toNat ∧ o.w.toNat ≤ 16 ∧ i.op = .shscan ∧ Config.kMax < o.k.toNat ∧ x = ⟨.count, o.k.setWidth 64⟩) ∨
    (1 ≤ o.w.toNat ∧ o.w.toNat ≤ 16 ∧ ∃ v, firstMisaligned (alignNeeds i o) = some v ∧ x = ⟨.align, v⟩) := by
  unfold startStop at h
  split at h
  · next hw => exact .inl ⟨hw, by simpa using h.symm⟩
  · next hw =>
    split at h
    · next hk => exact .inr (.inl ⟨by omega, by omega, hk.1, hk.2, by simpa using h.symm⟩)
    · obtain ⟨v, hv, hx⟩ := Option.map_eq_some_iff.mp h
      exact .inr (.inr ⟨by omega, by omega, v, hv, hx.symm⟩)

/-- A command that starts has a legal width, a legal count where it reads one, and aligned operands. -/
theorem startStop_none {i : Instr} {o : Latches} (h : startStop i o = none) :
    1 ≤ o.w.toNat ∧ o.w.toNat ≤ 16 ∧ (i.op = .shscan → o.k.toNat ≤ Config.kMax)
      ∧ firstMisaligned (alignNeeds i o) = none := by
  unfold startStop at h
  split at h
  · exact absurd h (by simp)
  · next hw =>
    split at h
    · exact absurd h (by simp)
    · next hk => exact ⟨by omega, by omega, fun hi => by by_contra hc; exact hk ⟨hi, by omega⟩, by simpa using h⟩

/-- What the contract of a command says. -/
theorem contractHeld_iff (s : State) (i : Instr) :
    s.contractHeld i = true ↔
      s.interfered = false ∧
      (∀ r ∈ readSpans i s.op ++ writeSpans i s.op, r.wraps = false ∧ r.apart s.platform.window = true) ∧
      (∀ r ∈ readSpans i s.op, ∀ w ∈ writeSpans i s.op, r.apart w = true) ∧
      bitmapsApart i s.op = true := by
  unfold State.contractHeld
  simp only [Bool.and_eq_true, List.all_eq_true, Bool.not_eq_true', and_assoc]

/-- START leads to RUN or to one error stop, always from the latched state. -/
theorem start_cases (s : State) :
    (decode s.cmd = none ∧ s.start = s.latch.raise (opcodeStop s.cmd)) ∨
    (∃ i x, decode s.cmd = some i ∧ startStop i s.sample = some x ∧ s.start = s.latch.raise x) ∨
    (∃ i, decode s.cmd = some i ∧ startStop i s.sample = none ∧ s.start = s.latch) := by
  have ho : s.latch.op = s.sample := rfl
  have hc : s.sample.cmd = s.cmd := rfl
  cases hd : decode s.cmd with
  | none => exact .inl ⟨rfl, by simp only [State.start, ho, hc, hd]⟩
  | some i =>
    cases hs : startStop i s.sample with
    | some x => exact .inr (.inl ⟨i, x, rfl, hs, by simp only [State.start, ho, hc, hd, hs]⟩)
    | none => exact .inr (.inr ⟨i, rfl, hs, by simp only [State.start, ho, hc, hd, hs]⟩)

/-- What a step can do: run the latched command, stop on a reserved latched word, do the host's oldest action, or nothing. -/
theorem step_cases (s : State) :
    (s.blockTurn = true ∧ ∃ i, decode s.op.cmd = some i ∧ step s = exec i s) ∨
    (s.blockTurn = true ∧ decode s.op.cmd = none ∧ step s = .next (s.raise (opcodeStop s.op.cmd))) ∨
    (s.blockTurn = false ∧ ∃ e rest, s.host = e :: rest ∧ step s = State.hostAct { s with host := rest } e.act) ∨
    (s.blockTurn = false ∧ s.host = [] ∧ step s = .next s) := by
  unfold step
  cases hb : s.blockTurn
  · cases hh : s.host with
    | nil => exact .inr (.inr (.inr ⟨rfl, rfl, rfl⟩))
    | cons e rest => exact .inr (.inr (.inl ⟨rfl, e, rest, rfl, rfl⟩))
  · cases hd : decode s.op.cmd with
    | none => exact .inr (.inl ⟨rfl, rfl, rfl⟩)
    | some i => exact .inl ⟨rfl, i, rfl, rfl⟩

/-- A state with a word to fetch is one that runs it next. -/
theorem withFetchWord_blockTurn (s : State) (nbits w : Nat) : (s.withFetchWord nbits w).blockTurn = true := by
  cases h : s.host <;>
    simp [State.withFetchWord, State.blockTurn, State.busy, notEarly, h]

end Sys2Proof.Machine
end

