-- ==== Sys2Proof/Laws/PerInstr.lean ====
section
/-! SUPPORT. The family Encoding: each command's fields are well-formed and its word decodes to it. -/

namespace Sys2Proof.Laws.Encoding

/-- The fields of the command pass every check, and its word decodes to it. -/
def Statement (i : Instr) : Prop := i.wf = true ∧ decode (encode i) = some i

theorem pack128 : Statement .pack128 := ⟨rfl, rfl⟩
theorem pack256 : Statement .pack256 := ⟨rfl, rfl⟩
theorem maskgen128 : Statement .maskgen128 := ⟨rfl, rfl⟩
theorem maskgen256 : Statement .maskgen256 := ⟨rfl, rfl⟩
theorem decodeS : Statement .decodeS := ⟨rfl, rfl⟩
theorem decodeV128 : Statement .decodeV128 := ⟨rfl, rfl⟩
theorem decodeV256 : Statement .decodeV256 := ⟨rfl, rfl⟩
theorem decodeV128M : Statement .decodeV128M := ⟨rfl, rfl⟩
theorem decodeV128A : Statement .decodeV128A := ⟨rfl, rfl⟩
theorem decodeV128U : Statement .decodeV128U := ⟨rfl, rfl⟩
theorem decodeV256V : Statement .decodeV256V := ⟨rfl, rfl⟩
theorem scanS : Statement .scanS := ⟨rfl, rfl⟩
theorem scanV128 : Statement .scanV128 := ⟨rfl, rfl⟩
theorem scanV256 : Statement .scanV256 := ⟨rfl, rfl⟩
theorem scanV128I : Statement .scanV128I := ⟨rfl, rfl⟩
theorem scanV256I : Statement .scanV256I := ⟨rfl, rfl⟩
theorem scanV128U : Statement .scanV128U := ⟨rfl, rfl⟩
theorem shscanV128 : Statement .shscanV128 := ⟨rfl, rfl⟩
theorem shscanV256 : Statement .shscanV256 := ⟨rfl, rfl⟩
theorem shscanV128X : Statement .shscanV128X := ⟨rfl, rfl⟩
theorem shscanV256X : Statement .shscanV256X := ⟨rfl, rfl⟩
theorem shscanH4 : Statement .shscanH4 := ⟨rfl, rfl⟩
theorem shscanH8 : Statement .shscanH8 := ⟨rfl, rfl⟩
theorem shscanT : Statement .shscanT := ⟨rfl, rfl⟩

end Sys2Proof.Laws.Encoding
end

