-- ==== Sys2Proof/Laws/Units.lean ====
section
/-! SUPPORT. The operations of the units: each keeps memory canonical, the cursor's induction once, mask constants by lane. -/

namespace Sys2Proof.Machine

/-! ## Stores of the units keep the canonical form -/

theorem storeLanes_wf (base : Nat) (v : List Lane) {m : Memory} (h : m.wf = true) : (storeLanes base v m).wf = true :=
  upto_inv (fun _ (m : Memory) => m.wf = true) h fun _ _ _ h => memWrite_wf h _ _ _

theorem storeShuffle_wf (base : Nat) (v : List Nat) {m : Memory} (h : m.wf = true) : (storeShuffle base v m).wf = true :=
  upto_inv (fun _ (m : Memory) => m.wf = true) h fun _ _ _ h => memWrite_wf h _ _ _

theorem storeSet_wf (l base : Nat) (ms : MaskSet) {m : Memory} (h : m.wf = true) : (storeSet l base ms m).wf = true := by
  unfold storeSet
  exact storeLanes_wf _ _ (storeLanes_wf _ _ (storeLanes_wf _ _ (storeLanes_wf _ _ (storeLanes_wf _ _ (storeLanes_wf _ _
    (storeShuffle_wf _ _ h))))))

theorem storeGroup_wf (j : Job) (l g : Nat) (r : List Lane) {m : Memory} (h : m.wf = true) :
    (storeGroup j l g r m).wf = true :=
  upto_inv (fun _ (m : Memory) => m.wf = true) h fun _ _ _ h => memWrite_wf h _ _ _

theorem packPadding_wf (j : Job) (l : Nat) {m : Memory} (h : m.wf = true) : (packPadding j l m).wf = true :=
  upto_inv (fun _ (m : Memory) => m.wf = true) h fun _ _ _ h => memWrite_wf h _ _ _

theorem storeWord_wf (dst : Nat) {e : Engine} (acc : Word) (rem : Nat) (h : e.mem.wf = true) :
    (e.storeWord dst acc rem).mem.wf = true := memWrite_wf h _ _ _

theorem packValue_wf (w dst v : Nat) {e : Engine} (h : e.mem.wf = true) : (packValue w dst v e).mem.wf = true := by
  unfold packValue
  simp only
  split
  · exact h
  · split
    · exact storeWord_wf (e := { e with bpe := _ }) _ _ _ h
    · exact storeWord_wf (e := { e with bpe := _ }) _ _ _ h

theorem packFlush_wf (dst : Nat) {e : Engine} (h : e.mem.wf = true) : (packFlush dst e).mem.wf = true := by
  unfold packFlush
  split
  · exact storeWord_wf _ _ _ h
  · exact h

theorem matchGroup_wf (j : Job) (l gb dst : Nat) (cmp : Compare) (g : Nat) {sm : Scanner × Memory} (h : sm.2.wf = true) :
    (matchGroup j l gb dst cmp g sm).2.wf = true := by
  unfold matchGroup
  simp only
  split
  · exact memWrite_wf h _ _ _
  · exact h

theorem scanBuffer_wf (j : Job) (l gb : Nat) (cmp : Compare) (key : BitVec 16) (dst : Nat) {sm : Scanner × Memory}
    (h : sm.2.wf = true) : (scanBuffer j l gb cmp key dst sm).2.wf = true := by
  unfold scanBuffer
  refine upto_inv (a := (startScanner j.w l key sm.1, sm.2)) (fun _ (sm : Scanner × Memory) => sm.2.wf = true) h
    fun g sm _ h => ?_
  exact matchGroup_wf j l gb dst cmp g (sm := (_, sm.2)) h

theorem octetKey_wf (j : Job) (il : Bool) (t x : Nat) {e : Engine} (h : e.mem.wf = true) :
    (octetKey j il t x e).mem.wf = true := memWrite_wf h _ _ _

theorem flushLane_wf (j : Job) (first i c : Nat) {e : Engine} (h : e.mem.wf = true) :
    (flushLane j first i c e).mem.wf = true := memWrite_wf h _ _ _

/-! ## The pipeline's registers -/

@[simp] theorem realignLanes_mfl (l : Nat) (f : Realign) (g : Nat) (sc : Scanner) : (realignLanes l f g sc).mfl = sc.mfl := rfl
@[simp] theorem realignLanes_vps (l : Nat) (f : Realign) (g : Nat) (sc : Scanner) : (realignLanes l f g sc).vps = sc.vps := rfl
@[simp] theorem realignLanes_raw (l : Nat) (f : Realign) (g : Nat) (sc : Scanner) :
    (realignLanes l f g sc).vbu.raw = sc.vbu.raw := rfl
@[simp] theorem advanceGroup_mfl (w l g : Nat) (sc : Scanner) : (advanceGroup w l g sc).mfl = sc.mfl := rfl
@[simp] theorem advanceGroup_vps (w l g : Nat) (sc : Scanner) : (advanceGroup w l g sc).vps = sc.vps := rfl
@[simp] theorem advanceGroup_r (w l g : Nat) (sc : Scanner) : (advanceGroup w l g sc).vbu.r = sc.vbu.r := rfl
@[simp] theorem loadGroup_mfl (l : Nat) (load : LoadWindow) (g : Nat) (m : Memory) (sc : Scanner) :
    (loadGroup l load g m sc).mfl = sc.mfl := rfl
@[simp] theorem loadGroup_vps (l : Nat) (load : LoadWindow) (g : Nat) (m : Memory) (sc : Scanner) :
    (loadGroup l load g m sc).vps = sc.vps := rfl
@[simp] theorem startPipeline_mfl (w l : Nat) (key : Option (BitVec 16)) (sc : Scanner) :
    (startPipeline w l key sc).mfl = maskSets w l key := rfl
@[simp] theorem startPipeline_vps (w l : Nat) (key : Option (BitVec 16)) (sc : Scanner) :
    (startPipeline w l key sc).vps = sc.vps := rfl

/-- The byte offset is the one of the output index (spec/10_state.md R41). -/
theorem advanceGroup_byteOff (w l g : Nat) (sc : Scanner) :
    (advanceGroup w l g sc).vbu.byteOff = (advanceGroup w l g sc).vbu.outputIndex * w / 8 := rfl

/-! ## The packer's loop -/

/-- What the packer's loop keeps: a property that packing one value keeps, whether the loop ends or stops at an entry below `n`. -/
theorem packEntries_inv {j : Job} {e : Engine} (P : Engine → Prop) (h0 : P e)
    (hs : ∀ i v f, P f → P { packValue j.w j.dst v f with idx := i + 1 }) :
    ∀ n, (∃ f, packEntries j n e = .ok f ∧ P f) ∨ (∃ k f, packEntries j n e = .error (k, f) ∧ k < n ∧ P f) := by
  intro n
  induction n with
  | zero => exact .inl ⟨e, rfl, h0⟩
  | succ n ih =>
    rcases ih with ⟨f, hf, hp⟩ | ⟨k, f, hf, hk, hp⟩
    · by_cases hv : 2 ^ j.w ≤ memRead f.mem (j.src + 2 * n) 2
      · exact .inr ⟨n, f, by simp [packEntries, hf, packEntry, hv], Nat.lt_succ_self n, hp⟩
      · exact .inl ⟨{ packValue j.w j.dst (memRead f.mem (j.src + 2 * n) 2) f with idx := n + 1 },
          by simp [packEntries, hf, packEntry, hv], hs n _ f hp⟩
    · exact .inr ⟨k, f, by simp [packEntries, hf], Nat.lt_succ_of_lt hk, hp⟩

/-! ## The key store -/

/-- The key table fills the first entries and the store keeps its size (spec/45_shared_scanner.md R264). -/
theorem length_loadKeys {j : Job} {e : Engine} (h : j.k ≤ e.ssm.keyStore.length) :
    (loadKeys j e).ssm.keyStore.length = e.ssm.keyStore.length := by
  simp only [loadKeys, List.length_append, List.length_map, List.length_range, List.length_drop]
  omega

theorem keyAt_loadKeys (j : Job) (e : Engine) {x : Nat} (h : x < j.k) :
    (loadKeys j e).ssm.keyAt x = BitVec.ofNat 16 (memRead e.mem (j.keys + 2 * x) 2) := by
  simp [loadKeys, Ssm.keyAt, List.getD_eq_getElem?_getD, List.getElem?_append_left, h]

/-! ## The cursor -/

/-- What the cursor keeps: a property that its own registers do not touch and that each emission below `N` keeps. -/
theorem cursor_inv {j : Job} {emit : Emit} {e : Engine} (P : Engine → Prop)
    (h0 : P { e with idx := 0, sbc := ⟨0, 0, 0, 0⟩ }) (hs : ∀ e c, P e → P { e with sbc := c })
    (hf : ∀ e, P e → e.idx ≠ j.n → P (emitField j.w emit e)) : P (cursor j emit e) := by
  have drain : ∀ fuel e, P e → P (drainWord j.w j.n emit fuel e) := by
    intro fuel
    induction fuel with
    | zero => exact fun e h => h
    | succ fuel ih =>
      intro e h
      rw [drainWord]
      split
      · next hc => exact ih _ (hs _ _ (hf e h (by omega)))
      · exact h
  have pass : ∀ e, P e → P (cursorPass j.src j.w j.n emit e) := by
    intro e h
    unfold cursorPass
    have hd := drain 64 _ (hs e _ h : P (loadCursorWord j.src e))
    simp only
    split
    · exact hd
    · next hn =>
      refine hs _ _ ?_
      split
      · exact hs _ _ (hf _ (hs _ _ hd) hn)
      · exact hs _ _ hd
  have loop : ∀ fuel e, P e → P (cursorLoop j.src j.w j.n emit fuel e) := by
    intro fuel
    induction fuel with
    | zero => exact fun e h => h
    | succ fuel ih =>
      intro e h
      rw [cursorLoop]
      split
      · exact ih _ (pass e h)
      · exact h
  exact loop _ _ h0

/-- A cursor whose emissions leave the index alone ends at or before `N`. -/
theorem cursor_idx_le {j : Job} {emit : Emit} (e : Engine) (he : ∀ i x e, (emit i x e).idx = e.idx) :
    (cursor j emit e).idx ≤ j.n :=
  cursor_inv (fun e => e.idx ≤ j.n) (Nat.zero_le _) (fun _ _ h => h) fun e h hn => by
    simp only [emitField, he]
    omega

/-- A cursor whose emissions keep memory canonical keeps it. -/
theorem cursor_wf {j : Job} {emit : Emit} {e : Engine} (h : e.mem.wf = true)
    (he : ∀ i x e, e.mem.wf = true → (emit i x e).mem.wf = true) : (cursor j emit e).mem.wf = true :=
  cursor_inv (fun e => e.mem.wf = true) h (fun _ _ h => h) fun _ h _ => he _ _ _ h

/-! ## Mask constants by lane -/

theorem getD_lanesOf {α : Type} (l : Nat) (f : Nat → α) (d : α) {x : Nat} (h : x < l) : (lanesOf l f).getD x d = f x := by
  simp [lanesOf, h]

@[simp] theorem length_lanesOf {α : Type} (l : Nat) (f : Nat → α) : (lanesOf l f).length = l := by simp [lanesOf]

theorem shuffle_maskSet (w l q : Nat) (key : Option (BitVec 16)) {x k : Nat} (hx : x < l) (hk : k < 4) :
    (maskSet w l q key).shuffle.getD (4 * x + k) 0 = laneByte w l q x + k := by
  rw [show (maskSet w l q key).shuffle = lanesOf (4 * l) fun x => laneByte w l q (x / 4) + x % 4 from rfl,
    getD_lanesOf _ _ _ (by omega), show (4 * x + k) / 4 = x by omega, show (4 * x + k) % 4 = k by omega]

theorem forGroup_maskSets (w l : Nat) (key : Option (BitVec 16)) (g : Nat) :
    (maskSets w l key).forGroup g = maskSet w l (g % 2) key := by
  unfold Mfl.forGroup maskSets
  rcases Nat.mod_two_eq_zero_or_one g with h | h <;> simp [h]

theorem laneShift_lt (w l q x : Nat) : laneShift w l q x < 8 := Nat.mod_lt _ (by decide)

end Sys2Proof.Machine
end

