-- ==== Sys2Proof/Tests/Slice0.lean ====
section
/-! SUPPORT. The model's own tests: words written out, ill-formed fields, the vectors of spec/95_test_vectors.md, and a witness
for the hypotheses of every statement. -/

namespace Sys2Proof.Tests

-- One test at a time: a thread for each waiting test fills the memory the check allows.
set_option Elab.async false

open Machine

/-! ## Words of spec/30_encoding.md R107, by OP, STRAT, VW, LAYOUT -/

theorem test_word_pack128 : decode 0b0000000000000000000000_0_0_0000_0001#32 = some .pack128 := by decide
theorem test_word_pack256 : decode 0b0000000000000000000000_0_1_0000_0001#32 = some .pack256 := by decide
theorem test_word_maskgen128 : decode 0b0000000000000000000000_0_0_0000_0010#32 = some .maskgen128 := by decide
theorem test_word_maskgen256 : decode 0b0000000000000000000000_0_1_0000_0010#32 = some .maskgen256 := by decide
theorem test_word_decodeS : decode 0b0000000000000000000000_0_0_0000_0011#32 = some .decodeS := by decide
theorem test_word_decodeV128 : decode 0b0000000000000000000000_0_0_0001_0011#32 = some .decodeV128 := by decide
theorem test_word_decodeV256 : decode 0b0000000000000000000000_0_1_0001_0011#32 = some .decodeV256 := by decide
theorem test_word_decodeV128M : decode 0b0000000000000000000000_0_0_0010_0011#32 = some .decodeV128M := by decide
theorem test_word_decodeV128A : decode 0b0000000000000000000000_0_0_0011_0011#32 = some .decodeV128A := by decide
theorem test_word_decodeV128U : decode 0b0000000000000000000000_0_0_0100_0011#32 = some .decodeV128U := by decide
theorem test_word_decodeV256V : decode 0b0000000000000000000000_0_1_0101_0011#32 = some .decodeV256V := by decide
theorem test_word_scanS : decode 0b0000000000000000000000_0_0_0000_0100#32 = some .scanS := by decide
theorem test_word_scanV128 : decode 0b0000000000000000000000_0_0_0001_0100#32 = some .scanV128 := by decide
theorem test_word_scanV256 : decode 0b0000000000000000000000_0_1_0001_0100#32 = some .scanV256 := by decide
theorem test_word_scanV128I : decode 0b0000000000000000000000_0_0_0010_0100#32 = some .scanV128I := by decide
theorem test_word_scanV256I : decode 0b0000000000000000000000_0_1_0010_0100#32 = some .scanV256I := by decide
theorem test_word_scanV128U : decode 0b0000000000000000000000_0_0_0100_0100#32 = some .scanV128U := by decide
theorem test_word_shscanV128 : decode 0b0000000000000000000000_0_0_0001_0101#32 = some .shscanV128 := by decide
theorem test_word_shscanV256 : decode 0b0000000000000000000000_0_1_0001_0101#32 = some .shscanV256 := by decide
theorem test_word_shscanV128X : decode 0b0000000000000000000000_1_0_0001_0101#32 = some .shscanV128X := by decide
theorem test_word_shscanV256X : decode 0b0000000000000000000000_1_1_0001_0101#32 = some .shscanV256X := by decide
theorem test_word_shscanH4 : decode 0b0000000000000000000000_0_0_0010_0101#32 = some .shscanH4 := by decide
theorem test_word_shscanH8 : decode 0b0000000000000000000000_0_1_0010_0101#32 = some .shscanH8 := by decide
theorem test_word_shscanT : decode 0b0000000000000000000000_0_0_0011_0101#32 = some .shscanT := by decide

/-- The reserved words of spec/95_test_vectors.md V14, and the reset value of CMD. -/
theorem test_reserved_words : decode 0 = none ∧ decode 0x213 = none ∧ decode 0x10013 = none := by decide

theorem test_table_word_rows : decodeTableWord 32 0x315 = some .shscanV256X ∧ decodeTableWord 32 0x213 = none := by decide

/-! ## Ill-formed fields: one for each check of spec/30_encoding.md R108 -/

theorem test_wf_accepts : (⟨5, 1, 1, 1, 0⟩ : CmdFields).wf = true := by decide
theorem test_wf_refuses_op : (⟨6, 0, 0, 0, 0⟩ : CmdFields).wf = false ∧ (⟨0, 0, 0, 0, 0⟩ : CmdFields).wf = false := by decide
theorem test_wf_refuses_strat : (⟨4, 3, 0, 0, 0⟩ : CmdFields).wf = false := by decide
theorem test_wf_refuses_vw : (⟨3, 5, 0, 0, 0⟩ : CmdFields).wf = false := by decide
theorem test_wf_refuses_layout : (⟨3, 1, 0, 1, 0⟩ : CmdFields).wf = false := by decide
theorem test_wf_refuses_zero : (⟨3, 1, 0, 0, 64⟩ : CmdFields).wf = false := by decide

/-! ## A small machine -/

/-- Column S1 at 0x1000, the buffer of V4 at 0x2000, the key table of V9 at 0x5000 (spec/95_test_vectors.md), zero bytes not listed. -/
def demoMem : Memory :=
  [(0x1000, 1), (0x1002, 2), (0x1004, 3), (0x1006, 3), (0x1008, 2), (0x100A, 1), (0x100C, 1), (0x100E, 2), (0x1010, 3),
   (0x1012, 1), (0x1014, 2), (0x1016, 3)] ++
  [(0x2000, 0x01), (0x2001, 0x04), (0x2002, 0x0C), (0x2003, 0x18), (0x2004, 0x20), (0x2005, 0x20), (0x2006, 0x40),
   (0x2008, 0x01), (0x2009, 0x03), (0x200A, 0x02), (0x200B, 0x08), (0x200C, 0x18)] ++
  [(0x5000, 1), (0x5002, 2), (0x5004, 3)]

/-- The machine in RUN with `W = 9`, these latches and `demoMem`. -/
def demo (n : BitVec 32) (src dst : Word) (key k : BitVec 16) (stride : Word) : State :=
  { State.reset with seq := .run, op := ⟨0, 9, n, src, dst, key, 0x5000, k, stride⟩, eng := Engine.fresh demoMem }

/-- The state a command leaves, by its body. -/
def after (i : Instr) (s : State) : State := s.conclude (bodyOf i s.job s.eng)

/-- PACK of the twelve values into 0x3000. -/
def demoPack : State := demo 12 0x1000 0x3000 0 0 0

/-- DECODE of the twelve values into 0x4000. -/
def demoDecode : State := demo 12 0x2000 0x4000 0 0 0

/-- DECODE or SCAN for key 3 of the first eight values into 0x4000. -/
def demoScan : State := demo 8 0x2000 0x4000 3 0 0

/-- SHSCAN for the keys 1, 2, 3 of the first eight values, `STRIDE = 8`. -/
def demoShared : State := demo 8 0x2000 0x4000 0 3 8

/-- The first `n` entries of the decoded array at 0x4000. -/
def entries (s : State) (n : Nat) : List Nat := (List.range n).map (entryAt s.eng.mem 0x4000)

/-! ## The vectors of spec/95_test_vectors.md -/

/-- V4: the two live words. -/
theorem test_pack128_V4 : memRead (after .pack128 demoPack).eng.mem 0x3000 16 = 0x000000180802030100402020180C0401 := by
  decide +kernel

/-- V4, rule R169: the same live words, and MATCHES 0 with STATUS 0x002. -/
theorem test_pack256_V4 :
    memRead (after .pack256 demoPack).eng.mem 0x3000 16 = 0x000000180802030100402020180C0401 ∧
      (after .pack256 demoPack).status = 0x002 := by decide +kernel

/-- V14: with `W = 1` the first entry that is too wide is entry 1 of S1, STATUS 0x506. -/
theorem test_pack128_errValue :
    (after .pack128 { demoPack with op := { demoPack.op with w := 1 } }).errinfo = 1 ∧
      (after .pack128 { demoPack with op := { demoPack.op with w := 1 } }).status = 0x506 := by decide +kernel

/-- V1, set 1 (dump offset 0x70): the multiplier of lane 0, predIn and predRe of lane 3. -/
theorem test_maskgen128_V1 :
    let m := storeSet 4 0x4070 (maskSet 9 4 1 (some 3)) []
    memRead m (0x4000 + 0x80) 4 = 0x00080000 ∧ memRead m (0x4000 + 0xDC) 4 = 3 ∧ memRead m (0x4000 + 0xCC) 4 = 0x180 := by
  decide +kernel

/-- V2: the last shuffle bytes and the last cleanIn lane of set 0. -/
theorem test_maskgen256_V2 :
    (maskSet 9 8 0 (some 3)).shuffle.drop 28 = [7, 8, 9, 10] ∧ (maskSet 9 8 0 (some 3)).cleanIn.getD 7 0 = 0xFF80 := by
  decide +kernel

/-- V6. -/
theorem test_decodeS_V6 : entries (after .decodeS demoDecode) 12 = [1, 2, 3, 3, 2, 1, 1, 2, 3, 1, 2, 3] := by decide +kernel

/-- V7. -/
theorem test_decodeV128_V7 : entries (after .decodeV128 demoDecode) 12 = [1, 2, 3, 3, 2, 1, 1, 2, 3, 1, 2, 3] := by
  decide +kernel

theorem test_decodeV128M_V7 : entries (after .decodeV128M demoDecode) 12 = [1, 2, 3, 3, 2, 1, 1, 2, 3, 1, 2, 3] := by
  decide +kernel

theorem test_decodeV128A_V7 : entries (after .decodeV128A demoDecode) 12 = [1, 2, 3, 3, 2, 1, 1, 2, 3, 1, 2, 3] := by
  decide +kernel

theorem test_decodeV128U_V7 : entries (after .decodeV128U demoDecode) 12 = [1, 2, 3, 3, 2, 1, 1, 2, 3, 1, 2, 3] := by
  decide +kernel

/-- V7, lane-group 0 at 256 bits. -/
theorem test_decodeV256_V7 : entries (after .decodeV256 demoScan) 8 = [1, 2, 3, 3, 2, 1, 1, 2] := by decide +kernel

theorem test_decodeV256V_V7 : entries (after .decodeV256V demoScan) 8 = [1, 2, 3, 3, 2, 1, 1, 2] := by decide +kernel

/-- V7: the lanes of lane-group 2 before realignment. -/
theorem test_decodeV128_raw_V7 :
    (after .decodeV128 demoDecode).eng.scan.vbu.raw = [0x18080203, 0x00180802, 0x00001808, 0x00000018] := by decide +kernel

/-- R41, R206: after lane-group 2 the index is 12 and the offset (12·9) div 8. -/
theorem test_decodeV128_advance_R206 :
    (after .decodeV128 demoDecode).eng.scan.vbu.outputIndex = 12 ∧ (after .decodeV128 demoDecode).eng.scan.vbu.byteOff = 13 := by
  decide +kernel

/-- R231: the realigned lanes of lane-group 1 stand in `r`. -/
theorem test_scanV128_r_R231 : (after .scanV128 demoScan).eng.scan.vbu.r = [2, 1, 1, 2] := by decide +kernel

/-- R163, R168 at an error: with `W = 1` entry 0 is packed and entry 1 is not. -/
theorem test_pack128_cursor_R168 :
    (after .pack128 { demoPack with op := { demoPack.op with w := 1 } }).eng.bpe = ⟨0, 63, 1⟩ := by decide +kernel

/-- V8, KEY = 3, byte 0; two of the first eight values match. -/
theorem test_scanS_V8 :
    byteAt (after .scanS demoScan).eng.mem 0x4000 = 0x0C ∧ (after .scanS demoScan).matchCount = 2 := by decide +kernel

theorem test_scanV128_V8 :
    byteAt (after .scanV128 demoScan).eng.mem 0x4000 = 0x0C ∧ (after .scanV128 demoScan).matchCount = 2 := by decide +kernel

theorem test_scanV256_V8 :
    byteAt (after .scanV256 demoScan).eng.mem 0x4000 = 0x0C ∧ (after .scanV256 demoScan).matchCount = 2 := by decide +kernel

theorem test_scanV128I_V8 :
    byteAt (after .scanV128I demoScan).eng.mem 0x4000 = 0x0C ∧ (after .scanV128I demoScan).matchCount = 2 := by decide +kernel

theorem test_scanV256I_V8 :
    byteAt (after .scanV256I demoScan).eng.mem 0x4000 = 0x0C ∧ (after .scanV256I demoScan).matchCount = 2 := by decide +kernel

/-- V8: MATCHES over all twelve values; the granule's bits past `N` are free, so only the count is tested. -/
theorem test_scanV128U_V8 :
    (after .scanV128U { demoScan with op := { demoScan.op with n := 12 } }).matchCount = 4 := by decide +kernel

/-- V9, bytes 0 of the three bitmaps. -/
def octets (s : State) (a step : Nat) : List Byte := (List.range 3).map fun x => byteAt s.eng.mem (a + step * x)

theorem test_shscanV128_V9 : octets (after .shscanV128 demoShared) 0x4000 8 = [0x61, 0x92, 0x0C] := by decide +kernel
theorem test_shscanV256_V9 : octets (after .shscanV256 demoShared) 0x4000 8 = [0x61, 0x92, 0x0C] := by decide +kernel
theorem test_shscanT_V9 : octets (after .shscanT demoShared) 0x4000 8 = [0x61, 0x92, 0x0C] := by decide +kernel
theorem test_shscanV128X_V9 : octets (after .shscanV128X demoShared) 0x4000 1 = [0x61, 0x92, 0x0C] := by decide +kernel
theorem test_shscanV256X_V9 : octets (after .shscanV256X demoShared) 0x4000 1 = [0x61, 0x92, 0x0C] := by decide +kernel

/-- R264: three keys, in a store of 1024. -/
theorem test_keyStore_R264 :
    (after .shscanV128 demoShared).eng.ssm.keyStore.take 4 = [1, 2, 3, 0] ∧
      (after .shscanV128 demoShared).eng.ssm.keyStore.length = 1024 := by decide +kernel

/-- Rule R272 over 32 values of one bit: the buffer's first word 0x0000034D of V11 gives each key its granule. -/
def demoKeys32 : State :=
  { demo 32 0x2000 0x4000 0 3 8 with
    op := ⟨0, 1, 32, 0x2000, 0x4000, 0, 0x5000, 3, 8⟩
    eng := Engine.fresh [(0x2000, 0x4D), (0x2001, 0x03), (0x5000, 1), (0x5004, 2)] }

theorem test_shscanH4_V11 :
    (List.range 3).map (fun x => memRead (after .shscanH4 demoKeys32).eng.mem (0x4000 + 8 * x) 4) =
      [0x0000034D, 0xFFFFFCB2, 0] := by decide +kernel

theorem test_shscanH8_V11 :
    (List.range 3).map (fun x => memRead (after .shscanH8 demoKeys32).eng.mem (0x4000 + 8 * x) 4) =
      [0x0000034D, 0xFFFFFCB2, 0] := by decide +kernel

/-! ## The host's side (P4 of spec/95_test_vectors.md) -/

/-- The status of the next state. -/
def statusOf : Host.Outcome State Fault Refusal → Option Word
  | .next t => some t.status
  | _ => none

/-- A register write of the host. -/
def wr (off : Nat) (v : Word) : HostEvent := ⟨.wr off v, false⟩

/-- START right after reset: ERR_OPCODE. -/
theorem test_start_after_reset : statusOf (step { State.reset with host := [wr 0 1] }) = some 0x106 := by decide +kernel

/-- DECODE.V128 with WIDTH = 20: ERR_W in the step of START. -/
theorem test_start_width_20 :
    statusOf (step { State.reset with cmd := 0x13, width := 20, host := [wr 0 1] }) = some 0x206 := by decide +kernel

/-- V14: SHSCAN.H4, 2000 keys and a misaligned SRC: ERR_COUNT comes before ERR_ALIGN. -/
theorem test_start_count_before_align :
    statusOf (step { State.reset with cmd := 0x25, width := 9, nkeys := 2000, src := 0x2001, host := [wr 0 1] }) = some 0x306 := by
  decide +kernel

/-- V14: DST before STRIDE. -/
theorem test_align_dst_before_stride :
    startStop .shscanH4 ⟨0x25, 9, 12, 0x2000, 0x3002, 0, 0x5000, 3, 6⟩ = some ⟨.align, 0x3002⟩ := by decide

/-- The host's question: a fetched word runs as the first command after reset, here to ERR_W. -/
theorem test_fetched_word_runs : statusOf (step (State.reset.withFetchWord 32 0x13)) = some 0x206 := by decide +kernel

/-- P4: a command with legal operands, latched and run by one step of the block, ends with DONE and its count in MATCHES. -/
theorem test_step_scanV128_done :
    (match step { demoScan with op := { demoScan.op with cmd := 0x14 } } with
      | .next t => some (t.status, t.matchCount)
      | _ => none) = some (0x002, 2) := by decide +kernel

/-- A START while BUSY is lost, and the block runs on. -/
theorem test_busy_write_ignored :
    statusOf (step { demoDecode with host := [⟨.wr 0 1, true⟩] }) = some 0x001 := by decide +kernel

/-! ## Witnesses: for every statement with hypotheses, a state and operands that meet them together -/

theorem ready_pack : Ready .pack128 demoPack ∧ Ready .pack256 demoPack :=
  ⟨⟨by decide, by decide, by decide⟩, ⟨by decide, by decide, by decide⟩⟩

theorem ready_maskgen : Ready .maskgen128 demoScan ∧ Ready .maskgen256 demoScan :=
  ⟨⟨by decide, by decide, by decide⟩, ⟨by decide, by decide, by decide⟩⟩

/-- The widths at both ends of the range (the clauses of ERR_W lie outside it). -/
theorem ready_widths :
    Ready .decodeS { demoDecode with op := { demoDecode.op with w := 1 } } ∧
      Ready .decodeS { demoDecode with op := { demoDecode.op with w := 16 } } :=
  ⟨⟨by decide, by decide, by decide⟩, ⟨by decide, by decide, by decide⟩⟩

theorem ready_decodes : ∀ i ∈ decodes, Ready i demoDecode := by
  intro i hi
  simp only [decodes, vectorDecodes, List.mem_cons, List.not_mem_nil, or_false] at hi
  rcases hi with rfl | rfl | rfl | rfl | rfl | rfl | rfl <;> exact ⟨by decide, by decide, by decide⟩

theorem ready_scans : ∀ i ∈ scans, Ready i demoScan := by
  intro i hi
  simp only [scans, List.mem_cons, List.not_mem_nil, or_false] at hi
  rcases hi with rfl | rfl | rfl | rfl | rfl | rfl <;> exact ⟨by decide, by decide, by decide⟩

theorem ready_shared : ∀ i ∈ separateScans ++ interleavedScans, Ready i demoShared := by
  intro i hi
  simp only [separateScans, interleavedScans, List.cons_append, List.nil_append, List.mem_cons, List.not_mem_nil, or_false] at hi
  rcases hi with rfl | rfl | rfl | rfl | rfl | rfl | rfl <;> exact ⟨by decide, by decide, by decide⟩

theorem ready_vector_decodes : ∀ i ∈ vectorDecodes, Ready i demoDecode := fun i hi => ready_decodes i (List.mem_cons_of_mem _ hi)

/-- The machine after reset with DECODE.V128 set up and START pending. -/
def demoStart : State :=
  { State.reset with cmd := 0x13, width := 9, nval := 12, src := 0x2000, dst := 0x4000, host := [wr 0 1] }

theorem witness_BlockTurnRunsTheLatchedCommand :
    ({ demoDecode with op := { demoDecode.op with cmd := 0x13 } }).blockTurn = true ∧ decode (0x13 : BitVec 32) = some .decodeV128 := by
  decide

theorem witness_StartLatchesAndEntersRun :
    demoStart.host = ⟨.wr 0x00 1, false⟩ :: [] ∧ demoStart.busy = false ∧ (1 : Word).getLsbD 0 = true ∧
      decode demoStart.cmd = some .decodeV128 ∧ startStop .decodeV128 demoStart.sample = none := by decide

theorem witness_StartOnReservedWordStops :
    ({ State.reset with host := [wr 0 1] } : State).busy = false ∧ decode State.reset.cmd = none := by decide

theorem witness_StartTimeErrorStopsAtOnce :
    ({ demoStart with src := 0x2004 } : State).busy = false ∧
      startStop .decodeV128 ({ demoStart with src := 0x2004 } : State).sample = some ⟨.align, 0x2004⟩ := by decide

theorem witness_WidthOutOfRangeStopsEveryCommand :
    (0 : BitVec 5).toNat < 1 ∧ 16 < (17 : BitVec 5).toNat ∧ 16 < (31 : BitVec 5).toNat := by decide

theorem witness_CountAboveLimitStopsSharedScan :
    Instr.op .shscanT = .shscan ∧ 1 ≤ demoShared.op.w.toNat ∧ demoShared.op.w.toNat ≤ 16 ∧ 1024 < (1025 : BitVec 16).toNat ∧
      startStop .shscanT { demoShared.op with k := 1024 } = none := by decide

/-- The four clauses of the alignment order, one operand wrong at a time, and the aligned case. -/
theorem witness_FirstMisalignedOperandIsReported :
    startStop .shscanH4 ⟨0, 9, 8, 0x2004, 0x4000, 0, 0x5000, 3, 8⟩ = some ⟨.align, 0x2004⟩ ∧
      startStop .shscanH4 ⟨0, 9, 8, 0x2000, 0x4001, 0, 0x5001, 3, 8⟩ = some ⟨.align, 0x5001⟩ ∧
      startStop .shscanH4 ⟨0, 9, 8, 0x2000, 0x4001, 0, 0x5000, 3, 9⟩ = some ⟨.align, 0x4001⟩ ∧
      startStop .shscanH4 ⟨0, 9, 8, 0x2000, 0x4000, 0, 0x5000, 3, 9⟩ = some ⟨.align, 9⟩ ∧
      startStop .shscanH4 ⟨0, 9, 8, 0x2000, 0x4000, 0, 0x5000, 3, 8⟩ = none := by decide

theorem witness_StartTimeErrorTouchesNothing :
    startStop Instr.pack128 ⟨0, 9, 8, 0x2001, 0x4000, 0, 0, 0, 0⟩ = some ⟨.align, 0x2001⟩ := by decide

theorem witness_OperandRegisterReadsBackLiveBits :
    (0x10, 32) ∈ operandRegisters ∧ (0x50, 64) ∈ operandRegisters ∧
      ({ State.reset with host := [wr 0x10 7, ⟨.rd 0x10, false⟩] } : State).busy = false := by decide

theorem witness_ReadOnlyAndReservedRegisters :
    (0x08 % 8 = 0 ∧ 0x60 % 8 = 0 ∧ 0x68 % 8 = 0) ∧ ({ State.reset with host := [wr 0x68 1] } : State).blockTurn = false := by
  decide

theorem witness_WritesWhileBusyAreIgnored :
    ({ demoDecode with host := [⟨.wr 0x00 3, true⟩] } : State).busy = true ∧ 0x00 % 8 = 0 := by decide

theorem witness_RegisterReadsHaveNoSideEffect :
    ({ demoDecode with host := [⟨.rd 0x08, true⟩] } : State).blockTurn = false ∧ 0x08 % 8 = 0 := by decide

theorem witness_ResultRegistersReadTheResults :
    ({ State.reset with seq := .fin, matchCount := 4, host := [⟨.rd 0x58, false⟩] } : State).blockTurn = false ∧
      ({ State.reset with seq := .fin, errcode := .width, errinfo := 20, host := [⟨.rd 0x60, false⟩] } : State).blockTurn =
        false := by decide

/-- All other bits set. -/
theorem witness_CtrlWriteWithoutStartOrClearDoesNothing :
    ({ demoStart with host := [wr 0 0xFFFFFFFFFFFFFFFC] } : State).blockTurn = false ∧
      (0xFFFFFFFFFFFFFFFC : Word).getLsbD 0 = false ∧ (0xFFFFFFFFFFFFFFFC : Word).getLsbD 1 = false := by decide

theorem witness_ClearResetsTheResults :
    ({ State.reset with seq := .fin, errcode := .width, host := [wr 0 2] } : State).busy = false ∧
      (2 : Word).getLsbD 1 = true ∧ (2 : Word).getLsbD 0 = false := by decide

theorem witness_ResetEventLeavesResetValues :
    ({ demoDecode with host := [⟨.reset, true⟩] } : State).blockTurn = false := by decide

theorem witness_HostMemoryWriteReadsBack :
    ({ State.reset with host := [⟨.memWr 5 7, false⟩, ⟨.memRd 5, false⟩] } : State).busy = false ∧
      State.reset.eng.mem.wf = true := by decide

theorem witness_UnalignedRegisterAccessFaults :
    ({ State.reset with host := [⟨.rd 9, false⟩] } : State).blockTurn = false ∧ 9 % 8 ≠ 0 := by decide

/-- The bounds of W, L, q and lane at both ends. -/
theorem witness_lane_bounds :
    (1 ≤ 1 ∧ 1 ≤ 16 ∧ 0 < 2 ∧ 0 < 4) ∧ (1 ≤ 16 ∧ 16 ≤ 16 ∧ 1 < 2 ∧ 7 < 8) := by decide

theorem witness_PackWritesTheBitStream :
    ∀ x, x < demoPack.op.n.toNat → columnAt demoPack.eng.mem demoPack.op.src.toNat x < 2 ^ demoPack.op.w.toNat := by
  decide +kernel

theorem witness_PackStopsAtTheFirstWideEntry :
    let s : State := { demoPack with op := { demoPack.op with w := 1 } }
    Ready .pack128 s ∧ 1 < s.op.n.toNat ∧ 2 ^ s.op.w.toNat ≤ columnAt s.eng.mem s.op.src.toNat 1 ∧
      ∀ x, x < 1 → columnAt s.eng.mem s.op.src.toNat x < 2 ^ s.op.w.toNat :=
  ⟨⟨by decide, by decide, by decide⟩, by decide, by decide +kernel, by decide +kernel⟩

/-- PACK into 0x3000, then DECODE of 0x3000 into 0x4000 in the state PACK left. -/
theorem witness_DecodeOfPackIsTheColumn :
    exec .pack256 demoPack = .next (after .pack256 demoPack) ∧
      Ready .decodeV256 { after .pack256 demoPack with op := { demoPack.op with src := 0x3000, dst := 0x4000 } } :=
  ⟨exec_ready ready_pack.2, ⟨by decide +kernel, by decide +kernel, by decide +kernel⟩⟩

theorem witness_KeyOutsideTheRangeMatchesNothing :
    let s : State := { demoScan with op := { demoScan.op with key := 512 } }
    Ready .scanV128I s ∧ 2 ^ s.op.w.toNat ≤ s.op.key.toNat := ⟨⟨by decide, by decide, by decide⟩, by decide⟩

theorem witness_SharedScanEqualsSingleScans :
    Ready .shscanT demoShared ∧ Ready .shscanV128X demoShared ∧ Ready .scanV128 demoScan ∧ 2 < demoShared.op.k.toNat ∧
      demoScan.eng.mem = demoShared.eng.mem ∧ demoScan.op.w = demoShared.op.w ∧ demoScan.op.n = demoShared.op.n ∧
      demoScan.op.src = demoShared.op.src ∧
      demoScan.op.key.toNat = keyAt demoShared.eng.mem demoShared.op.keys.toNat 2 :=
  ⟨ready_shared _ (by decide), ready_shared _ (by decide), ready_scans _ (by decide), by decide, rfl, rfl, rfl, rfl, by decide +kernel⟩

theorem witness_NoKeyIsNoWrite :
    let s : State := { demoShared with op := { demoShared.op with k := 0 } }
    Ready .shscanV128 s ∧ s.op.k.toNat = 0 := ⟨⟨by decide, by decide, by decide⟩, by decide⟩

/-- A next state of a command, and an address outside its write footprint. -/
theorem witness_NothingOutsideTheWriteFootprintChanges :
    exec .decodeS demoDecode = .next (after .decodeS demoDecode) ∧ 0x4030 < addrSpace ∧
      inSpans (writeSpans .decodeS demoDecode.op) 0x4030 = false := ⟨exec_ready (ready_decodes _ (by decide)), by decide, by decide⟩

/-- A PACK that passes its start-time checks and ends with an error. -/
theorem witness_OnlyPackErrsDuringItsRun :
    let s : State := { demoPack with op := { demoPack.op with w := 1 } }
    startStop .pack128 s.op = none ∧ (after .pack128 s).errcode ≠ .none := by decide +kernel

/-- Another memory that agrees on the live bytes and the windows: a byte of the column differs. -/
theorem witness_OnlyTheReadFootprintMatters :
    let m := setByte demoMem 0x1000 9
    Ready .scanV128 demoScan ∧ m.wf = true ∧
      (∀ a, a < addrSpace → inSpans (readSpans .scanV128 demoScan.op) a = true → byteAt m a = byteAt demoScan.eng.mem a) := by
  refine ⟨ready_scans _ (by decide), by decide, fun a ha h => ?_⟩
  have h' : a ≠ 0x1000 := by rintro rfl; exact absurd h (by decide)
  exact byteAt_setByte_ne _ _ (by rw [Nat.mod_eq_of_lt ha, Nat.mod_eq_of_lt (by decide)]; exact Ne.symm h')

/-- Another memory that differs in the padding of the buffer only. -/
theorem witness_PaddingNeverMatters :
    let m := setByte demoMem 0x2009 0xFF
    Ready .scanV128 demoScan ∧ m.wf = true ∧
      (∀ b, b < demoScan.op.w.toNat * demoScan.op.n.toNat →
        streamBit m demoScan.op.src.toNat b = streamBit demoScan.eng.mem demoScan.op.src.toNat b) ∧
      (Instr.op .scanV128 = .shscan → ∀ k, k < demoScan.op.k.toNat →
        keyAt m demoScan.op.keys.toNat k = keyAt demoScan.eng.mem demoScan.op.keys.toNat k) :=
  ⟨ready_scans _ (by decide), by decide, by decide +kernel, by decide⟩

theorem witness_ContractIsDisjointness :
    demoScan.interfered = false ∧
      (∀ r ∈ readSpans .scanV128 demoScan.op ++ writeSpans .scanV128 demoScan.op,
        r.wraps = false ∧ r.apart demoScan.platform.window = true) ∧ bitmapsApart .scanV128 demoScan.op = true := by decide

/-- The invariant away from reset: a running command. -/
theorem witness_EveryStepKeepsInv : Inv demoStart.latch where
  mem := by decide
  err := by decide
  info := by decide
  count := by decide
  run := fun _ => ⟨rfl, .decodeV128, by decide, by decide⟩
  idx := by decide
  store := List.length_replicate

end Sys2Proof.Tests
end

/-! PROOFS. The state, the host port and the invariant (spec/10_state.md). -/

namespace Sys2Proof.Machine

/-! ## How a command ends -/

/-- The engine that the body of a command leaves. -/
def RunEnd.engine : RunEnd → Engine
  | .done e _ => e
  | .stop e _ => e

/-- The count that the body of a command leaves for MATCHES: an error leaves 0 (spec/10_state.md R34). -/
def RunEnd.count : RunEnd → BitVec 32
  | .done _ n => n
  | .stop _ _ => 0

@[simp] theorem RunEnd.engine_done (e : Engine) (n : BitVec 32) : (RunEnd.done e n).engine = e := rfl
@[simp] theorem RunEnd.engine_stop (e : Engine) (k : Nat) : (RunEnd.stop e k).engine = e := rfl
@[simp] theorem RunEnd.count_done (e : Engine) (n : BitVec 32) : (RunEnd.done e n).count = n := rfl
@[simp] theorem RunEnd.count_stop (e : Engine) (k : Nat) : (RunEnd.stop e k).count = 0 := rfl

@[simp] theorem State.conclude_eng (s : State) (r : RunEnd) : (s.conclude r).eng = r.engine := by cases r <;> rfl
@[simp] theorem State.conclude_matchCount (s : State) (r : RunEnd) : (s.conclude r).matchCount = r.count := by
  cases r <;> rfl

theorem State.conclude_count_of_err {s : State} {r : RunEnd} (h : (s.conclude r).errcode ≠ .none) : r.count = 0 := by
  cases r with
  | done e n => exact absurd rfl h
  | stop e k => rfl

theorem State.raise_operandsKept (s : State) (x : Stop) : OperandsKept s (s.raise x) :=
  ⟨⟨rfl, rfl, rfl, rfl, rfl, rfl, rfl, rfl, rfl⟩, rfl, rfl, rfl, rfl, rfl⟩

theorem State.conclude_operandsKept (s : State) (r : RunEnd) : OperandsKept s (s.conclude r) := by
  cases r <;> exact ⟨⟨rfl, rfl, rfl, rfl, rfl, rfl, rfl, rfl, rfl⟩, rfl, rfl, rfl, rfl, rfl⟩

/-- How a command that ends has ended: at a start-time check, outside its contract, or through its body. -/
theorem exec_cases {i : Instr} {s t : State} (h : exec i s = .next t) :
    (∃ x, startStop i s.op = some x ∧ t = s.raise x) ∨
    (startStop i s.op = none ∧ s.contractHeld i = false ∧ t = s.conclude (s.outOfContract i)) ∨
    (startStop i s.op = none ∧ s.contractHeld i = true ∧ t = s.conclude (bodyOf i s.job s.eng)) := by
  rw [exec_eq_command] at h
  rcases command_cases i s (bodyOf i) with ⟨x, hx, hc⟩ | ⟨hs, hk, hc⟩ | ⟨hs, hk, hc⟩ <;> cases hc.symm.trans h
  · exact .inl ⟨x, hx, rfl⟩
  · exact .inr (.inl ⟨hs, hk, rfl⟩)
  · exact .inr (.inr ⟨hs, hk, rfl⟩)

theorem outOfContract_engine (i : Instr) (s : State) :
    (s.outOfContract i).engine = { s.eng with mem := fillAll s.draw (writeSpans i s.op) s.eng.mem } := by
  rcases outOfContract_cases i s with ⟨n, h, -⟩ | ⟨k, -, -, h⟩ <;> rw [h] <;> rfl

theorem outOfContract_count {i : Instr} (s : State) (hi : i.op ≠ .scan) : (s.outOfContract i).count = 0 := by
  rcases outOfContract_cases i s with ⟨n, h, hn⟩ | ⟨k, -, -, h⟩ <;> rw [h]
  · exact hn hi
  · rfl

/-- Every body but those of SCAN leaves no count. -/
theorem bodyOf_count {i : Instr} (j : Job) (e : Engine) (hi : i.op ≠ .scan) : (bodyOf i j e).count = 0 := by
  have pack (p : Instr) : (packBody p j e).count = 0 := by unfold packBody; split <;> rfl
  have vertical (l : Nat) (il : Bool) : (verticalBody l il j e).count = 0 := by
    unfold verticalBody; simp only; split <;> rfl
  cases i with
  | pack128 | pack256 => exact pack _
  | shscanV128 | shscanV256 | shscanV128X | shscanV256X => exact vertical _ _
  | scanS | scanV128 | scanV256 | scanV128I | scanV256I | scanV128U => exact absurd rfl hi
  | maskgen128 | maskgen256 | decodeS | decodeV128 | decodeV256 | decodeV128M | decodeV128A | decodeV128U
  | decodeV256V | shscanH4 | shscanH8 | shscanT => rfl

/-- Settles O44: every way a command ends writes only results, sequencer, engine and the draw counter. -/
theorem noCommandWritesAnOperandRegister : Obligations.NoCommandWritesAnOperandRegister := by
  intro i s t h
  rcases exec_cases h with ⟨x, -, rfl⟩ | ⟨-, -, rfl⟩ | ⟨-, -, rfl⟩
  · exact s.raise_operandsKept x
  · exact s.conclude_operandsKept _
  · exact s.conclude_operandsKept _

/-- Settles O45: an error clears MATCHES, and no body but those of SCAN counts. -/
theorem onlyScanLeavesACount : Obligations.OnlyScanLeavesACount := by
  intro i s t h hn
  rcases exec_cases h with ⟨x, -, rfl⟩ | ⟨-, -, rfl⟩ | ⟨-, -, rfl⟩
  · rfl
  · rw [State.conclude_matchCount]
    exact hn.elim (outOfContract_count s) State.conclude_count_of_err
  · rw [State.conclude_matchCount]
    exact hn.elim (bodyOf_count _ _) State.conclude_count_of_err

/-! ## The turn of the block and the turn of the host -/

theorem blockTurn_of_not_busy {s : State} (h : s.busy = false) : s.blockTurn = false := by simp [State.blockTurn, h]

theorem blockTurn_of_early {s : State} {a : HostAct} {rest : List HostEvent} (h : s.host = ⟨a, true⟩ :: rest) :
    s.blockTurn = false := by simp [State.blockTurn, h]

theorem step_of_host_turn {s : State} {e : HostEvent} {rest : List HostEvent} (hb : s.blockTurn = false)
    (hh : s.host = e :: rest) : step s = State.hostAct { s with host := rest } e.act := by simp [step, hb, hh]

theorem step_of_write {s : State} {off : Nat} {v : Word} {e : Bool} {rest : List HostEvent} (hb : s.blockTurn = false)
    (ha : off % 8 = 0) (hh : s.host = ⟨.wr off v, e⟩ :: rest) :
    step s = .next (State.writeReg { s with host := rest } off v) := by
  rw [step_of_host_turn hb hh]
  simp [State.hostAct, regAligned, ha]

theorem step_of_read {s : State} {off : Nat} {e : Bool} {rest : List HostEvent} (hb : s.blockTurn = false)
    (ha : off % 8 = 0) (hh : s.host = ⟨.rd off, e⟩ :: rest) :
    step s = .next { s with host := rest, reads := s.reads ++ [s.readReg off] } := by
  rw [step_of_host_turn hb hh]
  simp only [State.hostAct, regAligned, ha, decide_true, if_true]
  rfl

/-- Settles O5: the block's branch of `step`. -/
theorem blockTurnRunsTheLatchedCommand : Obligations.BlockTurnRunsTheLatchedCommand := by
  intro s i hb hd
  simp only [step, hb, if_true, hd]

/-- Settles O22: the host port answers only at offsets that are multiples of 8. -/
theorem unalignedRegisterAccessFaults : Obligations.UnalignedRegisterAccessFaults := by
  intro s off v e rest hb ha hh
  rcases hh with hh | hh <;> rw [step_of_host_turn hb hh] <;> simp [State.hostAct, regAligned, ha]

/-- Settles O17: the host's turn on a read. -/
theorem registerReadsHaveNoSideEffect : Obligations.RegisterReadsHaveNoSideEffect :=
  fun _ _ _ _ hb ha hh => step_of_read hb ha hh

/-- Settles O55: the two offsets are aligned, and what they read is the field. -/
theorem resultRegistersReadTheResults : Obligations.ResultRegistersReadTheResults :=
  fun _ _ _ hb => ⟨step_of_read hb rfl, step_of_read hb rfl⟩

/-- STATUS bit by bit (spec/10_state.md R23). -/
theorem status_getLsbD (s : State) (b : Nat) : s.status.getLsbD b =
    if b = 0 then s.busy else if b = 1 then s.done else if b = 2 then s.err
    else if b < 8 then false else s.errcode.bits.getLsbD (b - 8) := by
  simp only [State.status, BitVec.getLsbD_append, BitVec.getLsbD_ofBool]
  grind

/-- Settles O18: the bits are those of `status_getLsbD`, and the sequencer is in one state. -/
theorem statusBitsAreBusyDoneErrCode : Obligations.StatusBitsAreBusyDoneErrCode := by
  intro s
  rw [show s.readReg 0x08 = s.status from rfl]
  refine ⟨status_getLsbD s 0, status_getLsbD s 1, status_getLsbD s 2, ?_, fun b hb => ?_, fun ⟨h0, h1⟩ => ?_⟩
  · refine BitVec.eq_of_getLsbD_eq fun b hb => ?_
    rw [BitVec.getLsbD_extractLsb', status_getLsbD]
    simp [hb, show 8 + b ≠ 1 by omega, show 8 + b ≠ 2 by omega]
  · rw [status_getLsbD, if_neg (by omega), if_neg (by omega), if_neg (by omega)]
    split
    · rfl
    · exact BitVec.getLsbD_of_ge _ _ (by omega)
  · rw [status_getLsbD] at h0 h1
    have hrun : s.seq = .run := of_decide_eq_true h0
    have hfin : s.seq = .fin := of_decide_eq_true h1
    cases hrun.symm.trans hfin

/-! ## A write of CTRL -/

theorem writeReg_of_busy {s : State} (h : s.busy = true) (off : Nat) (v : Word) : s.writeReg off v = s := by
  simp [State.writeReg, h]

theorem writeReg_ctrl {s : State} (h : s.busy = false) (v : Word) : s.writeReg 0x00 v = s.writeCtrl v := by
  simp [State.writeReg, h]

/-- START latches over what a CLEAR in the same write has cleared. -/
theorem writeCtrl_of_start (s : State) {v : Word} (h : v.getLsbD 0 = true) : s.writeCtrl v = s.start := by
  simp only [State.writeCtrl, h, if_true]
  split <;> rfl

theorem writeCtrl_of_clear (s : State) {v : Word} (h0 : v.getLsbD 0 = false) (h1 : v.getLsbD 1 = true) :
    s.writeCtrl v = s.clearResults := by simp only [State.writeCtrl, h0, h1, if_true, Bool.false_eq_true, if_false]

theorem writeCtrl_of_neither (s : State) {v : Word} (h0 : v.getLsbD 0 = false) (h1 : v.getLsbD 1 = false) :
    s.writeCtrl v = s := by simp only [State.writeCtrl, h0, h1, Bool.false_eq_true, if_false]

theorem step_of_ctrl {s : State} {v : Word} {e : Bool} {rest : List HostEvent} (hb : s.busy = false)
    (hh : s.host = ⟨.wr 0x00 v, e⟩ :: rest) : step s = .next (State.writeCtrl { s with host := rest } v) := by
  rw [step_of_write (blockTurn_of_not_busy hb) rfl hh, writeReg_ctrl (s := { s with host := rest }) hb]

theorem start_of_legal {s : State} {i : Instr} (hd : decode s.cmd = some i) (hs : startStop i s.sample = none) :
    s.start = s.latch := by
  simp only [State.start, State.latch_op, show s.sample.cmd = s.cmd from rfl, hd, hs]

theorem start_of_error {s : State} {i : Instr} {x : Stop} (hd : decode s.cmd = some i)
    (hs : startStop i s.sample = some x) : s.start = s.latch.raise x := by
  simp only [State.start, State.latch_op, show s.sample.cmd = s.cmd from rfl, hd, hs]

/-- Settles O7: such a START only latches. -/
theorem startLatchesAndEntersRun : Obligations.StartLatchesAndEntersRun := by
  intro s i v e rest hh hb hv hd hs
  refine ⟨State.latch { s with host := rest }, ?_, rfl, rfl, rfl, rfl, rfl, rfl, rfl,
    ⟨rfl, rfl, rfl, rfl, rfl, rfl, rfl, rfl, rfl⟩, rfl⟩
  rw [step_of_ctrl hb hh, writeCtrl_of_start _ hv, start_of_legal (s := { s with host := rest }) hd hs]

/-- Settles O9: such a START latches and stops. -/
theorem startTimeErrorStopsAtOnce : Obligations.StartTimeErrorStopsAtOnce := by
  intro s i x v e rest hh hb hv hd hs
  refine ⟨(State.latch { s with host := rest }).raise x, ?_, rfl, rfl, rfl, rfl, rfl,
    ⟨rfl, rfl, rfl, rfl, rfl, rfl, rfl, rfl, rfl⟩⟩
  rw [step_of_ctrl hb hh, writeCtrl_of_start _ hv, start_of_error (s := { s with host := rest }) hd hs]

/-- Settles O19: bit 1 alone is `clearResults`. -/
theorem clearResetsTheResults : Obligations.ClearResetsTheResults := by
  intro s v e rest hb h1 h0 hh
  refine ⟨State.clearResults { s with host := rest }, ?_, rfl, rfl, rfl, rfl,
    ⟨rfl, rfl, rfl, rfl, rfl, rfl, rfl, rfl, rfl⟩, rfl, rfl, rfl, rfl⟩
  rw [step_of_ctrl hb hh, writeCtrl_of_clear _ h0 h1]

/-- Settles O56: BUSY or not, nothing happens. -/
theorem ctrlWriteWithoutStartOrClearDoesNothing : Obligations.CtrlWriteWithoutStartOrClearDoesNothing := by
  intro s v e rest hb h0 h1 hh
  cases hbusy : s.busy with
  | true => rw [step_of_write hb rfl hh, writeReg_of_busy (s := { s with host := rest }) hbusy]
  | false => rw [step_of_ctrl hbusy hh, writeCtrl_of_neither _ h0 h1]

/-- Settles O16: the early action comes before the block's turn, and BUSY ignores it. -/
theorem writesWhileBusyAreIgnored : Obligations.WritesWhileBusyAreIgnored := by
  intro s off v rest hb ha hh
  rw [step_of_write (blockTurn_of_early hh) ha hh, writeReg_of_busy (s := { s with host := rest }) hb]

/-! ## A write of the other registers -/

theorem writeReg_ignored (s : State) {off : Nat} (v : Word) (h : off = 0x08 ∨ off = 0x58 ∨ off = 0x60 ∨ 0x68 ≤ off) :
    s.writeReg off v = s := by
  unfold State.writeReg
  split
  · rfl
  · split <;> simp_all

theorem readReg_reserved (s : State) {off : Nat} (h : off = 0x00 ∨ 0x68 ≤ off) : s.readReg off = 0 := by
  unfold State.readReg
  split <;> simp_all

/-- Settles O15: every offset but CTRL and the operand registers is the default of a write. -/
theorem readOnlyAndReservedRegisters : Obligations.ReadOnlyAndReservedRegisters :=
  ⟨fun _ _ _ _ _ ho ha hb hh => by rw [step_of_write hb ha hh, writeReg_ignored _ _ ho],
    fun s _ ho => readReg_reserved s ho⟩

/-- Two states that differ in operand registers only. -/
structure OnlyOperandsDiffer (s t : State) : Prop where
  matchCount : t.matchCount = s.matchCount
  errinfo : t.errinfo = s.errinfo
  errcode : t.errcode = s.errcode
  seq : t.seq = s.seq
  op : t.op = s.op
  eng : t.eng = s.eng
  host : t.host = s.host
  reads : t.reads = s.reads
  interfered : t.interfered = s.interfered
  draw : t.draw = s.draw
  platform : t.platform = s.platform

/-- A write of any register but CTRL changes operand registers only. -/
theorem writeReg_onlyOperandsDiffer (s : State) {off : Nat} (v : Word) (h : off ≠ 0x00) :
    OnlyOperandsDiffer s (s.writeReg off v) := by
  unfold State.writeReg
  split
  · exact ⟨rfl, rfl, rfl, rfl, rfl, rfl, rfl, rfl, rfl, rfl, rfl⟩
  · split
    · exact absurd rfl h
    all_goals exact ⟨rfl, rfl, rfl, rfl, rfl, rfl, rfl, rfl, rfl, rfl, rfl⟩

theorem zeroExtend_setWidth (w : Nat) (v : Word) : (v.setWidth w).setWidth 64 = BitVec.ofNat 64 (v.toNat % 2 ^ w) :=
  BitVec.eq_of_toNat_eq (by simp)

/-- An operand register reads back the live bits of what was written. -/
theorem readReg_writeReg_same {s : State} {off live : Nat} (h : (off, live) ∈ operandRegisters) (hb : s.busy = false)
    (v : Word) : (s.writeReg off v).readReg off = BitVec.ofNat 64 (v.toNat % 2 ^ live) := by
  simp only [operandRegisters, List.mem_cons, Prod.mk.injEq, List.not_mem_nil, or_false] at h
  rw [← zeroExtend_setWidth]
  rcases h with ⟨rfl, rfl⟩ | ⟨rfl, rfl⟩ | ⟨rfl, rfl⟩ | ⟨rfl, rfl⟩ | ⟨rfl, rfl⟩ | ⟨rfl, rfl⟩ | ⟨rfl, rfl⟩ | ⟨rfl, rfl⟩ |
    ⟨rfl, rfl⟩ <;> simp [State.writeReg, hb, State.readReg]

/-- A write of an operand register leaves what the others read. -/
theorem readReg_writeReg_ne {s : State} {off off' : Nat} (hc : off ≠ 0x00) (h : off' ≠ off)
    (v : Word) : (s.writeReg off v).readReg off' = s.readReg off' := by
  unfold State.writeReg
  split
  · rfl
  · split
    · exact absurd rfl hc
    all_goals unfold State.readReg; split <;> simp_all [State.status, State.busy, State.done, State.err]

/-- The operand registers are aligned and CTRL is none of them (spec/10_state.md R20). -/
theorem operandRegisters_off : ∀ r ∈ operandRegisters, r.1 % 8 = 0 ∧ r.1 ≠ 0x00 := by decide

/-- Settles O14: the write, then the read in the state it leaves. -/
theorem operandRegisterReadsBackLiveBits : Obligations.OperandRegisterReadsBackLiveBits := by
  intro s off live v e f rest hm hb hh
  obtain ⟨ha, hc⟩ := operandRegisters_off _ hm
  let w := State.writeReg { s with host := ⟨.rd off, f⟩ :: rest } off v
  have hk : OnlyOperandsDiffer { s with host := ⟨.rd off, f⟩ :: rest } w := writeReg_onlyOperandsDiffer _ v hc
  have hread : w.readReg off = BitVec.ofNat 64 (v.toNat % 2 ^ live) :=
    readReg_writeReg_same (s := { s with host := ⟨.rd off, f⟩ :: rest }) hm hb v
  have hwrite : core.step s = .next w := step_of_write (blockTurn_of_not_busy hb) ha hh
  have hwb : w.busy = false := by simpa [State.busy, hk.seq] using hb
  have hstep : core.step w = .next { w with host := rest, reads := w.reads ++ [w.readReg off] } :=
    step_of_read (blockTurn_of_not_busy hwb) ha hk.host
  refine ⟨{ w with host := rest, reads := w.reads ++ [w.readReg off] }, ?_, ?_, fun off' ho => ?_, hk.eng, rfl⟩
  · simp only [Host.Core.run, hwrite, hstep]
  · simp only [hread, hk.reads]
  · exact readReg_writeReg_ne (s := { s with host := ⟨.rd off, f⟩ :: rest }) hc ho v

end Sys2Proof.Machine

/-! PROOFS. The units that the body of each command does not use keep their registers (spec/10_state.md R47). Where a pass
sets other fields only, the hypothesis about the engine before it is the proof. -/

namespace Sys2Proof.Machine

/-! ## Units that a command does not use -/

theorem unitsKept_setMem (i : Instr) (e : Engine) (m : Memory) : UnitsKept i e { e with mem := m } := by
  cases i <;> simp [UnitsKept]

theorem upto_unitsKept {i : Instr} {e f : Engine} {n : Nat} {pass : Nat → Engine → Engine} (h0 : UnitsKept i e f)
    (hs : ∀ k g, UnitsKept i e g → UnitsKept i e (pass k g)) : UnitsKept i e (upto n pass f) :=
  upto_inv (fun _ => UnitsKept i e) h0 fun k g _ => hs k g

/-- The packing of one value moves the cursor and memory only. -/
theorem packValue_unitsKept {e f : Engine} (w dst v idx : Nat) (h : UnitsKept .pack128 e f) :
    UnitsKept .pack128 e { packValue w dst v f with idx := idx } := by
  unfold packValue
  simp only
  split
  · exact h
  · split <;> exact h

theorem packFlush_unitsKept {e f : Engine} (dst : Nat) (h : UnitsKept .pack128 e f) :
    UnitsKept .pack128 e (packFlush dst f) := by
  unfold packFlush
  split <;> exact h

theorem packBody_unitsKept (i : Instr) (j : Job) (e : Engine) : UnitsKept .pack128 e (packBody i j e).engine := by
  have h0 : UnitsKept .pack128 e { e with idx := 0, bpe := ⟨0, 64, 0⟩ } := ⟨rfl, rfl, rfl, rfl⟩
  unfold packBody
  rcases packEntries_inv (j := j) (UnitsKept .pack128 e) h0 (fun i v f hf => packValue_unitsKept _ _ v _ hf) j.n with
    ⟨f, hf, hk⟩ | ⟨k, f, hf, -, hk⟩ <;> rw [hf]
  · exact packFlush_unitsKept j.dst hk
  · exact hk

theorem decodeGroup_unitsKept {e f : Engine} (j : Job) (l : Nat) (load : LoadWindow) (realign : Realign) (g : Nat)
    (h : UnitsKept .decodeV128 e f) : UnitsKept .decodeV128 e (decodeGroup j l load realign g f) := h

theorem decodeVectorBody_unitsKept (l : Nat) (load : Job → LoadWindow) (realign : Nat → Realign) (j : Job) (e : Engine) :
    UnitsKept .decodeV128 e (decodeVectorBody l load realign j e).engine := by
  rw [decodeVectorBody, RunEnd.engine_done]
  exact upto_unitsKept ⟨rfl, rfl, rfl, rfl, rfl⟩ fun g _ h => decodeGroup_unitsKept j l _ _ g h

theorem decodeUnrolledBody_unitsKept (j : Job) (e : Engine) : UnitsKept .decodeV128 e (decodeUnrolledBody j e).engine := by
  rw [decodeUnrolledBody, RunEnd.engine_done]
  refine upto_unitsKept ⟨rfl, rfl, rfl, rfl, rfl⟩ fun u f h => ?_
  exact upto_unitsKept h fun g _ h => decodeGroup_unitsKept j 4 _ _ _ h

theorem decodeScalarBody_unitsKept (j : Job) (e : Engine) : UnitsKept .decodeS e (decodeScalarBody j e).engine :=
  cursor_inv (UnitsKept .decodeS e) ⟨rfl, rfl, rfl, rfl⟩ (fun _ _ h => h) fun _ h _ => h

theorem emitMatch_unitsKept {e f : Engine} (j : Job) (i : Nat) (x : BitVec 16) (h : UnitsKept .scanS e f) :
    UnitsKept .scanS e (emitMatch j i x f) := by
  unfold emitMatch
  simp only
  split <;> exact h

theorem scanScalarBody_unitsKept (j : Job) (e : Engine) : UnitsKept .scanS e (scanScalarBody j e).engine :=
  cursor_inv (UnitsKept .scanS e) ⟨rfl, rfl, rfl, rfl, rfl⟩ (fun _ _ h => h) fun _ h _ => emitMatch_unitsKept j _ _ h

theorem scanVectorBody_unitsKept (l gb : Nat) (cmp : Compare) (j : Job) (e : Engine) :
    UnitsKept .scanV128 e (scanVectorBody l gb cmp j e).engine := by
  unfold scanVectorBody
  exact ⟨rfl, rfl, rfl, rfl⟩

theorem maskgenBody_unitsKept (l : Nat) (j : Job) (e : Engine) : UnitsKept .maskgen128 e (maskgenBody l j e).engine := by
  unfold maskgenBody
  exact ⟨rfl, rfl, rfl, rfl, rfl, rfl⟩

theorem octetGroup_unitsKept {e f : Engine} (j : Job) (l t h : Nat) (hk : UnitsKept .shscanV128 e f) :
    UnitsKept .shscanV128 e (octetGroup j l t h f) := by
  unfold octetGroup
  simp only
  split <;> exact hk

theorem octetPass_unitsKept {e f : Engine} (j : Job) (l : Nat) (il : Bool) (t : Nat) (h : UnitsKept .shscanV128 e f) :
    UnitsKept .shscanV128 e (octetPass j l il t f) := by
  have hg : UnitsKept .shscanV128 e (upto (8 / l) (octetGroup j l t) f) :=
    upto_unitsKept h fun x _ h => octetGroup_unitsKept j l t x h
  have hk : UnitsKept .shscanV128 e (upto j.k (octetKey j il t) (upto (8 / l) (octetGroup j l t) f)) :=
    upto_unitsKept hg fun _ _ h => h
  exact hk

theorem verticalBody_unitsKept (l : Nat) (il : Bool) (j : Job) (e : Engine) :
    UnitsKept .shscanV128 e (verticalBody l il j e).engine := by
  unfold verticalBody
  simp only
  split
  · exact ⟨rfl, rfl, rfl, rfl⟩
  · rw [RunEnd.engine_done]
    exact upto_unitsKept ⟨rfl, rfl, rfl, rfl⟩ fun t _ h => octetPass_unitsKept j l il t h

theorem emitKeys_unitsKept {e f : Engine} (j : Job) (first i : Nat) (x : BitVec 16) (h : UnitsKept .shscanH4 e f) :
    UnitsKept .shscanH4 e (emitKeys j first i x f) := by
  unfold emitKeys
  simp only
  split
  · exact upto_unitsKept h fun _ _ h => h
  · exact h

theorem horizontalBody_unitsKept (l : Nat) (j : Job) (e : Engine) :
    UnitsKept .shscanH4 e (horizontalBody l j e).engine := by
  rw [horizontalBody, RunEnd.engine_done]
  refine upto_unitsKept ⟨rfl, rfl, rfl⟩ fun jg f h => ?_
  exact cursor_inv (UnitsKept .shscanH4 e) h (fun _ _ h => h) fun _ h _ => emitKeys_unitsKept j (jg * l) _ _ h

theorem threadedBody_unitsKept (j : Job) (e : Engine) : UnitsKept .shscanT e (threadedBody j e).engine := by
  have hw : UnitsKept .shscanT e (upto j.nwork (workerRun j)
      (loadKeys j { e with idx := 0, workers := List.replicate j.nwork Scanner.empty })) :=
    upto_unitsKept ⟨rfl, rfl, rfl⟩ fun w f h => by
      rw [workerRun]
      exact upto_unitsKept h fun _ _ h => h
  exact hw

theorem bodyOf_unitsKept (i : Instr) (j : Job) (e : Engine) : UnitsKept i e (bodyOf i j e).engine := by
  cases i <;> unfold bodyOf
  case pack128 | pack256 => exact packBody_unitsKept _ j e
  case maskgen128 | maskgen256 => exact maskgenBody_unitsKept _ j e
  case decodeS => exact decodeScalarBody_unitsKept j e
  case decodeV128 | decodeV256 | decodeV128M | decodeV128A | decodeV256V => exact decodeVectorBody_unitsKept _ _ _ j e
  case decodeV128U => exact decodeUnrolledBody_unitsKept j e
  case scanS => exact scanScalarBody_unitsKept j e
  case scanV128 | scanV256 | scanV128I | scanV256I | scanV128U => exact scanVectorBody_unitsKept _ _ _ j e
  case shscanV128 | shscanV256 | shscanV128X | shscanV256X => exact verticalBody_unitsKept _ _ j e
  case shscanH4 | shscanH8 => exact horizontalBody_unitsKept _ j e
  case shscanT => exact threadedBody_unitsKept j e

/-- Settles O46: an error at START and a run outside the contract touch no unit, and each body keeps those it does not use. -/
theorem unusedUnitsKeepTheirRegisters : Obligations.UnusedUnitsKeepTheirRegisters := by
  intro i s t h
  rcases exec_cases h with ⟨x, -, rfl⟩ | ⟨-, -, rfl⟩ | ⟨-, -, rfl⟩
  · exact unitsKept_setMem i s.eng s.eng.mem
  · rw [State.conclude_eng, outOfContract_engine]
    exact unitsKept_setMem i s.eng _
  · rw [State.conclude_eng]
    exact bodyOf_unitsKept i s.job s.eng

end Sys2Proof.Machine

/-! PROOFS. The invariant of every state (spec/10_state.md): first of the engine, through the body of each command, then of the
whole state, through each kind of step. -/

namespace Sys2Proof.Machine

/-! ## The invariant of the engine -/

/-- The clauses of `Inv` about the engine, for a command with `n` values. -/
structure EngineInv (n : Nat) (e : Engine) : Prop where
  mem : e.mem.wf = true
  idx : e.idx ≤ n
  store : e.ssm.keyStore.length = Config.kMax

theorem engineInv_fresh {n : Nat} {m : Memory} (h : m.wf = true) : EngineInv n (Engine.fresh m) :=
  ⟨h, Nat.zero_le n, List.length_replicate⟩

/-- With the index at 0 the bound may be any. -/
theorem EngineInv.restart {n n' : Nat} {e : Engine} (h : EngineInv n e) : EngineInv n' { e with idx := 0 } :=
  ⟨h.mem, Nat.zero_le n', h.store⟩

theorem upto_engineInv {n k : Nat} {e : Engine} {pass : Nat → Engine → Engine} (h0 : EngineInv n e)
    (hs : ∀ i f, EngineInv n f → EngineInv n (pass i f)) : EngineInv n (upto k pass e) :=
  upto_inv (fun _ => EngineInv n) h0 fun i f _ => hs i f

/-! ### PACK and MASKGEN -/

/-- The index counts the entries packed. -/
theorem packEntries_idx {j : Job} {e : Engine} (h0 : e.idx = 0) :
    ∀ n f, packEntries j n e = .ok f → f.idx = n := by
  intro n
  induction n with
  | zero =>
    intro f hf
    cases hf
    exact h0
  | succ n _ =>
    intro f hf
    rw [packEntries] at hf
    split at hf
    · rw [packEntry] at hf
      split at hf <;> cases hf
      rfl
    · cases hf

theorem packFlush_engineInv {n : Nat} {e : Engine} (dst : Nat) (h : EngineInv n e) : EngineInv n (packFlush dst e) := by
  unfold packFlush
  split
  · exact ⟨storeWord_wf dst _ _ h.mem, h.idx, h.store⟩
  · exact h

theorem packBody_engineInv (i : Instr) {j : Job} {e : Engine} (h : EngineInv j.n e) :
    EngineInv j.n (packBody i j e).engine := by
  have hpack := packEntries_inv (j := j) (e := { e with idx := 0, bpe := ⟨0, 64, 0⟩ })
    (fun f => f.mem.wf = true ∧ UnitsKept .pack128 e f) ⟨h.mem, rfl, rfl, rfl, rfl⟩
    (fun _ v _ hf => ⟨packValue_wf j.w j.dst v hf.1, packValue_unitsKept j.w j.dst v _ hf.2⟩) j.n
  unfold packBody
  rcases hpack with ⟨f, hf, hm, -, -, hssm, -⟩ | ⟨k, f, hf, hk, -, -, -, hssm, -⟩ <;> rw [hf]
  · have hflush : EngineInv j.n (packFlush j.dst f) :=
      packFlush_engineInv j.dst ⟨hm, (packEntries_idx rfl _ _ hf).le, hssm ▸ h.store⟩
    exact ⟨packPadding_wf j _ hflush.mem, hflush.idx, hflush.store⟩
  · exact ⟨fillAll_wf _ _ h.mem, hk.le, hssm ▸ h.store⟩

theorem maskgenBody_engineInv (l : Nat) {j : Job} {e : Engine} (h : EngineInv j.n e) :
    EngineInv j.n (maskgenBody l j e).engine := by
  unfold maskgenBody
  exact ⟨storeSet_wf l _ _ (storeSet_wf l _ _ h.mem), h.idx, h.store⟩

/-! ### DECODE and SCAN -/

theorem decodeGroup_engineInv {j : Job} {e : Engine} (l : Nat) (load : LoadWindow) (realign : Realign) (g : Nat)
    (h : EngineInv j.n e) : EngineInv j.n (decodeGroup j l load realign g e) :=
  ⟨storeGroup_wf j l g _ h.mem, Nat.min_le_right _ _, h.store⟩

theorem decodeVectorBody_engineInv (l : Nat) (load : Job → LoadWindow) (realign : Nat → Realign) {j : Job} {e : Engine}
    (h : EngineInv j.n e) : EngineInv j.n (decodeVectorBody l load realign j e).engine := by
  rw [decodeVectorBody, RunEnd.engine_done]
  exact upto_engineInv ⟨h.mem, Nat.zero_le _, h.store⟩ fun g _ => decodeGroup_engineInv l _ _ g

theorem decodeUnrolledBody_engineInv {j : Job} {e : Engine} (h : EngineInv j.n e) :
    EngineInv j.n (decodeUnrolledBody j e).engine := by
  rw [decodeUnrolledBody, RunEnd.engine_done]
  refine upto_engineInv ⟨h.mem, Nat.zero_le _, h.store⟩ fun u f h => ?_
  exact upto_engineInv h fun g _ => decodeGroup_engineInv 4 _ _ _

theorem scanVectorBody_engineInv (l gb : Nat) (cmp : Compare) {j : Job} {e : Engine} (h : EngineInv j.n e) :
    EngineInv j.n (scanVectorBody l gb cmp j e).engine := by
  unfold scanVectorBody
  exact ⟨scanBuffer_wf j l gb cmp _ _ (sm := (e.scan, e.mem)) h.mem, le_rfl, h.store⟩

/-- The cursor keeps the invariant when its emissions do for every bound on the index, that is, without moving it. -/
theorem cursor_engineInv {j : Job} {emit : Emit} {n : Nat} {e : Engine} (h : EngineInv n e)
    (he : ∀ m i x f, EngineInv m f → EngineInv m (emit i x f)) : EngineInv j.n (cursor j emit e) := by
  refine cursor_inv (EngineInv j.n) ⟨h.mem, Nat.zero_le _, h.store⟩ (fun _ _ h => ⟨h.mem, h.idx, h.store⟩) fun f hf hn => ?_
  have hemit := he f.idx f.idx (f.sbc.field j.w) f ⟨hf.mem, le_rfl, hf.store⟩
  exact ⟨hemit.mem, Nat.lt_of_le_of_lt hemit.idx (Nat.lt_of_le_of_ne hf.idx hn), hemit.store⟩

theorem decodeScalarBody_engineInv {j : Job} {e : Engine} (h : EngineInv j.n e) :
    EngineInv j.n (decodeScalarBody j e).engine :=
  cursor_engineInv h fun _ _ _ _ hf => ⟨memWrite_wf hf.mem _ _ _, hf.idx, hf.store⟩

theorem emitMatch_engineInv {n : Nat} {e : Engine} (j : Job) (i : Nat) (x : BitVec 16) (h : EngineInv n e) :
    EngineInv n (emitMatch j i x e) := by
  unfold emitMatch
  simp only
  split
  · exact ⟨memWrite_wf h.mem _ _ _, h.idx, h.store⟩
  · exact ⟨h.mem, h.idx, h.store⟩

theorem scanScalarBody_engineInv {j : Job} {e : Engine} (h : EngineInv j.n e) :
    EngineInv j.n (scanScalarBody j e).engine := by
  rw [scanScalarBody, RunEnd.engine_done]
  exact cursor_engineInv (n := j.n) ⟨h.mem, h.idx, h.store⟩ fun _ i x _ => emitMatch_engineInv j i x

/-! ### SHSCAN -/

theorem loadKeys_engineInv {n : Nat} {j : Job} {e : Engine} (hk : j.k ≤ Config.kMax) (h : EngineInv n e) :
    EngineInv n (loadKeys j e) :=
  ⟨h.mem, h.idx, (length_loadKeys (h.store ▸ hk)).trans h.store⟩

theorem octetGroup_engineInv {n : Nat} {e : Engine} (j : Job) (l t x : Nat) (h : EngineInv n e) :
    EngineInv n (octetGroup j l t x e) := by
  unfold octetGroup
  simp only
  split
  · exact ⟨h.mem, h.idx, h.store⟩
  · exact h

theorem octetPass_engineInv {j : Job} {e : Engine} (l : Nat) (il : Bool) (t : Nat) (h : EngineInv j.n e) :
    EngineInv j.n (octetPass j l il t e) := by
  have hg : EngineInv j.n (upto (8 / l) (octetGroup j l t) e) :=
    upto_engineInv h fun x _ => octetGroup_engineInv j l t x
  have hk : EngineInv j.n (upto j.k (octetKey j il t) (upto (8 / l) (octetGroup j l t) e)) :=
    upto_engineInv hg fun x _ h => ⟨octetKey_wf j il t x h.mem, h.idx, h.store⟩
  exact ⟨hk.mem, Nat.min_le_right _ _, hk.store⟩

theorem verticalBody_engineInv (l : Nat) (il : Bool) {j : Job} {e : Engine} (hk : j.k ≤ Config.kMax)
    (h : EngineInv j.n e) : EngineInv j.n (verticalBody l il j e).engine := by
  have hl : EngineInv j.n (loadKeys j { e with idx := 0, ssm := { e.ssm with octet := List.replicate 8 0, j := 0 } }) :=
    loadKeys_engineInv hk ⟨h.mem, Nat.zero_le _, h.store⟩
  unfold verticalBody
  simp only
  split
  · exact hl
  · exact upto_engineInv ⟨hl.mem, hl.idx, hl.store⟩ fun t _ => octetPass_engineInv l il t

theorem emitKeys_engineInv {n : Nat} {e : Engine} (j : Job) (first i : Nat) (x : BitVec 16) (h : EngineInv n e) :
    EngineInv n (emitKeys j first i x e) := by
  have ha : EngineInv n { e with ssm := accumulate i x e.ssm } := ⟨h.mem, h.idx, h.store⟩
  unfold emitKeys
  simp only
  split
  · exact upto_engineInv ha fun c _ h => ⟨flushLane_wf j first i c h.mem, h.idx, h.store⟩
  · exact ha

theorem horizontalBody_engineInv (l : Nat) {j : Job} {e : Engine} (hk : j.k ≤ Config.kMax) (h : EngineInv j.n e) :
    EngineInv j.n (horizontalBody l j e).engine := by
  rw [horizontalBody, RunEnd.engine_done]
  refine upto_engineInv (loadKeys_engineInv hk h.restart) fun jg f h => ?_
  exact cursor_engineInv (n := j.n) ⟨h.mem, h.idx, h.store⟩ fun _ i x _ => emitKeys_engineInv j (jg * l) i x

theorem workerKey_engineInv {n : Nat} {e : Engine} (j : Job) (w x : Nat) (h : EngineInv n e) :
    EngineInv n (workerKey j w x e) :=
  ⟨scanBuffer_wf j 4 1 compareRealigned _ _ (sm := (_, e.mem)) h.mem, h.idx, h.store⟩

theorem threadedBody_engineInv {j : Job} {e : Engine} (hk : j.k ≤ Config.kMax) (h : EngineInv j.n e) :
    EngineInv j.n (threadedBody j e).engine := by
  have hw : EngineInv j.n (upto j.nwork (workerRun j)
      (loadKeys j { e with idx := 0, workers := List.replicate j.nwork Scanner.empty })) :=
    upto_engineInv (loadKeys_engineInv hk ⟨h.mem, Nat.zero_le _, h.store⟩) fun w f h => by
      rw [workerRun]
      exact upto_engineInv h fun d _ => workerKey_engineInv j w _
  have hidx : (if j.k = 0 then 0 else j.n) ≤ j.n := by split <;> omega
  exact ⟨hw.mem, hidx, hw.store⟩

/-- Every body keeps the invariant; a shared scan needs a legal key count. -/
theorem bodyOf_engineInv {i : Instr} {j : Job} {e : Engine} (hk : i.op = .shscan → j.k ≤ Config.kMax)
    (h : EngineInv j.n e) : EngineInv j.n (bodyOf i j e).engine := by
  cases i <;> unfold bodyOf
  case pack128 | pack256 => exact packBody_engineInv _ h
  case maskgen128 | maskgen256 => exact maskgenBody_engineInv _ h
  case decodeS => exact decodeScalarBody_engineInv h
  case decodeV128 | decodeV256 | decodeV128M | decodeV128A | decodeV256V => exact decodeVectorBody_engineInv _ _ _ h
  case decodeV128U => exact decodeUnrolledBody_engineInv h
  case scanS => exact scanScalarBody_engineInv h
  case scanV128 | scanV256 | scanV128I | scanV256I | scanV128U => exact scanVectorBody_engineInv _ _ _ h
  case shscanV128 | shscanV256 | shscanV128X | shscanV256X => exact verticalBody_engineInv _ _ (hk rfl) h
  case shscanH4 | shscanH8 => exact horizontalBody_engineInv _ (hk rfl) h
  case shscanT => exact threadedBody_engineInv (hk rfl) h

/-! ## The invariant of the state -/

theorem engineInv_of_inv {s : State} (h : Inv s) : EngineInv s.op.n.toNat s.eng := ⟨h.mem, h.idx, h.store⟩

theorem inv_of_idle {s : State} (hs : s.seq = .idle) (hc : s.errcode = .none) (hi : s.errinfo = 0)
    (hm : s.matchCount = 0) (h : EngineInv s.op.n.toNat s.eng) : Inv s where
  mem := h.mem
  err := fun he => absurd hc he
  info := fun _ => hi
  count := fun hn => absurd hm hn
  run := fun hr => nomatch hs.symm.trans hr
  idx := h.idx
  store := h.store

theorem inv_raise {s : State} {x : Stop} (hx : x.code ≠ .none) (h : EngineInv s.op.n.toNat s.eng) : Inv (s.raise x) where
  mem := h.mem
  err := fun _ => rfl
  info := fun hc => absurd hc hx
  count := fun hn => absurd rfl hn
  run := nofun
  idx := h.idx
  store := h.store

theorem inv_finish {s : State} (n : BitVec 32) (h : EngineInv s.op.n.toNat s.eng) : Inv (s.finish n) where
  mem := h.mem
  err := fun _ => rfl
  info := fun _ => rfl
  count := fun _ => ⟨rfl, rfl⟩
  run := nofun
  idx := h.idx
  store := h.store

theorem inv_conclude {s : State} {r : RunEnd} (h : EngineInv s.op.n.toNat r.engine) : Inv (s.conclude r) := by
  cases r with
  | done e n => exact inv_finish (s := s.withEngine e) n h
  | stop e k => exact inv_raise (s := s.withEngine e) nofun h

theorem startStop_code {i : Instr} {o : Latches} {x : Stop} (h : startStop i o = some x) : x.code ≠ .none := by
  rcases startStop_cases h with ⟨-, rfl⟩ | ⟨-, -, -, -, rfl⟩ | ⟨-, -, v, -, rfl⟩ <;> nofun

theorem inv_exec {i : Instr} {s t : State} (h : Inv s) (ht : exec i s = .next t) : Inv t := by
  rcases exec_cases ht with ⟨x, hx, rfl⟩ | ⟨-, -, rfl⟩ | ⟨hs, -, rfl⟩
  · exact inv_raise (startStop_code hx) (engineInv_of_inv h)
  · refine inv_conclude ?_
    rw [outOfContract_engine]
    exact ⟨fillAll_wf _ _ h.mem, h.idx, h.store⟩
  · obtain ⟨-, -, hk, -⟩ := startStop_none hs
    exact inv_conclude (bodyOf_engineInv (j := s.job) hk (engineInv_of_inv h))

theorem inv_start {s : State} (h : EngineInv s.op.n.toNat s.eng) : Inv s.start := by
  have hl : EngineInv s.latch.op.n.toNat s.latch.eng := h.restart
  rcases start_cases s with ⟨-, hs⟩ | ⟨i, x, -, hx, hs⟩ | ⟨i, hd, hn, hs⟩ <;> rw [hs]
  · exact inv_raise nofun hl
  · exact inv_raise (startStop_code hx) hl
  · exact ⟨hl.mem, fun he => absurd rfl he, fun _ => rfl, fun hn => absurd rfl hn, fun _ => ⟨rfl, i, hd, hn⟩, hl.idx,
      hl.store⟩

theorem inv_writeCtrl {s : State} (v : Word) (h : Inv s) : Inv (s.writeCtrl v) := by
  cases h0 : v.getLsbD 0 with
  | true =>
    rw [writeCtrl_of_start s h0]
    exact inv_start (engineInv_of_inv h)
  | false =>
    cases h1 : v.getLsbD 1 with
    | true =>
      rw [writeCtrl_of_clear s h0 h1]
      exact inv_of_idle rfl rfl rfl rfl (engineInv_of_inv (s := s) h)
    | false => rwa [writeCtrl_of_neither s h0 h1]

/-- Without a running command the operand registers may change. -/
theorem inv_of_onlyOperandsDiffer {s t : State} (h : Inv s) (hb : s.busy = false) (hd : OnlyOperandsDiffer s t) :
    Inv t where
  mem := hd.eng ▸ h.mem
  err := hd.errcode ▸ hd.seq ▸ h.err
  info := hd.errcode ▸ hd.errinfo ▸ h.info
  count := hd.matchCount ▸ hd.seq ▸ hd.errcode ▸ h.count
  run := fun hr => absurd (hd.seq ▸ hr) (of_decide_eq_false hb)
  idx := hd.eng ▸ hd.op ▸ h.idx
  store := hd.eng ▸ h.store

theorem inv_writeReg {s : State} (off : Nat) (v : Word) (h : Inv s) : Inv (s.writeReg off v) := by
  cases hb : s.busy with
  | true => rwa [writeReg_of_busy hb]
  | false =>
    by_cases ho : off = 0x00
    · subst ho
      rw [writeReg_ctrl hb]
      exact inv_writeCtrl v h
    · exact inv_of_onlyOperandsDiffer h hb (writeReg_onlyOperandsDiffer s v ho)

theorem inv_hostMemRead {s : State} (a : Nat) (h : Inv s) : Inv (s.hostMemRead a) := by
  unfold State.hostMemRead
  split <;> exact ⟨h.mem, h.err, h.info, h.count, h.run, h.idx, h.store⟩

theorem inv_hostAct {s t : State} {a : HostAct} (h : Inv s) (ht : s.hostAct a = .next t) : Inv t := by
  cases a <;> simp only [State.hostAct] at ht
  case wr off v =>
    split at ht <;> cases ht
    exact inv_writeReg off v h
  case rd off =>
    split at ht <;> cases ht
    exact ⟨h.mem, h.err, h.info, h.count, h.run, h.idx, h.store⟩
  case memWr a b =>
    cases ht
    exact ⟨setByte_wf h.mem _ _, h.err, h.info, h.count, h.run, h.idx, h.store⟩
  case memRd a =>
    cases ht
    exact inv_hostMemRead a.toNat h
  case reset =>
    cases ht
    exact inv_of_idle rfl rfl rfl rfl (engineInv_fresh (fillAll_wf _ _ h.mem))

/-- Settles O53: reset is idle with no result, over a fresh engine and an empty memory. -/
theorem invHoldsAtReset : Obligations.InvHoldsAtReset := inv_of_idle rfl rfl rfl rfl (engineInv_fresh rfl)

/-- Settles O54: by the kind of step; the block's turn runs a command or stops on a reserved word, the host's turn does an
action. -/
theorem everyStepKeepsInv : Obligations.EveryStepKeepsInv := by
  intro s t h ht
  rcases step_cases s with ⟨-, i, -, hs⟩ | ⟨-, -, hs⟩ | ⟨-, e, rest, -, hs⟩ | ⟨-, -, hs⟩ <;> rw [hs] at ht
  · exact inv_exec h ht
  · cases ht
    exact inv_raise nofun (engineInv_of_inv h)
  · exact inv_hostAct (s := { s with host := rest }) ⟨h.mem, h.err, h.info, h.count, h.run, h.idx, h.store⟩ ht
  · cases ht
    exact h

end Sys2Proof.Machine

/-! PROOFS. Operand checks, host accesses of memory, and the footprints as intervals (spec/20_memory.md). -/

namespace Sys2Proof.Machine

/-! ## Alignment -/

/-- The list that START goes through is the table of R70, an operand without a need aligned to 1. -/
theorem firstMisaligned_alignNeeds (i : Instr) (o : Latches) :
    firstMisaligned (alignNeeds i o) = firstMisaligned
      [(o.src, (requiredAlignments i).src), (o.keys, (requiredAlignments i).keys), (o.dst, (requiredAlignments i).dst),
        (o.stride, (requiredAlignments i).stride)] := by
  cases i
  case shscanH4 | shscanH8 => rfl
  all_goals simp only [alignNeeds, requiredAlignments, firstMisaligned, Nat.mod_one, if_true]

/-- Settles O12: past the checks of width and count, START goes through the table of R70 in its order. -/
theorem firstMisalignedOperandIsReported : Obligations.FirstMisalignedOperandIsReported := by
  intro i o h1 h16 hk
  have hw : ¬(o.w.toNat < 1 ∨ 16 < o.w.toNat) := by omega
  have hc : ¬(i.op = .shscan ∧ Config.kMax < o.k.toNat) := fun ⟨hi, hgt⟩ => absurd (hk hi) (Nat.not_le.mpr hgt)
  rw [startStop, if_neg hw, if_neg hc, firstMisaligned_alignNeeds]
  simp only [firstMisaligned, ne_eq, ite_not]
  split_ifs <;> rfl

/-! ## The host's accesses -/

theorem inSpans_busyWrites_of_not_busy {s : State} (h : s.busy = false) (a : Nat) : inSpans s.busyWrites a = false := by
  simp [State.busyWrites, h, inSpans]

/-- Settles O21: the write, then the read in the state it leaves. -/
theorem hostMemoryWriteReadsBack : Obligations.HostMemoryWriteReadsBack := by
  intro s a b e f rest hb hm hh
  let w := State.hostMemWrite { s with host := ⟨.memRd a, f⟩ :: rest } a.toNat b
  have hwrite : core.step s = .next w := step_of_host_turn (blockTurn_of_not_busy hb) hh
  have hread : core.step w = .next (State.hostMemRead { w with host := rest } a.toNat) :=
    step_of_host_turn (blockTurn_of_not_busy (s := w) hb) rfl
  have hbyte : byteAt w.eng.mem a.toNat = b := byteAt_setByte_self hm b rfl
  refine ⟨{ w with host := rest, reads := s.reads ++ [b.setWidth 64] }, ?_, rfl, fun x hx hne => ?_,
    ⟨rfl, rfl, rfl, rfl, rfl, rfl, rfl, rfl, rfl⟩⟩
  · simp only [Host.Core.run, hwrite, hread, State.hostMemRead,
      inSpans_busyWrites_of_not_busy (s := { w with host := rest }) hb, Bool.false_eq_true, if_false, hbyte]
    rfl
  · refine byteAt_setByte_ne _ _ fun he => hne ?_
    have ha := a.isLt
    rw [Nat.mod_eq_of_lt hx, Nat.mod_eq_of_lt (by simpa [addrSpace] using ha)] at he
    omega

/-! ## Disjoint regions -/

/-- A region without wrap holds exactly the addresses of its interval, an empty one none. -/
theorem Span.has_of_not_wraps {r : Span} (hr : r.wraps = false) {a : Nat} (ha : a < addrSpace) :
    r.has a = true ↔ r.base ≤ a ∧ a < r.base + r.len := by
  rcases Nat.eq_zero_or_pos r.len with h0 | h0
  · simp only [Span.has, h0, decide_eq_true_eq]
    omega
  · refine Span.has_iff ?_ ha
    simpa [Span.wraps, h0] using hr

/-- Two regions without wrap are apart exactly when no byte is in both. -/
theorem Span.apart_iff {r t : Span} (hr : r.wraps = false) (ht : t.wraps = false) :
    r.apart t = true ↔ ∀ a, a < addrSpace → ¬(r.has a = true ∧ t.has a = true) := by
  have hmax : 0 < r.len → 0 < t.len → r.base + r.len ≤ addrSpace ∧ t.base + t.len ≤ addrSpace := by
    simp only [Span.wraps, Bool.and_eq_false_iff, decide_eq_false_iff_not] at hr ht
    omega
  simp only [Span.apart, Bool.or_eq_true, decide_eq_true_eq]
  constructor
  · intro h a ha ⟨h1, h2⟩
    rw [Span.has_of_not_wraps hr ha] at h1
    rw [Span.has_of_not_wraps ht ha] at h2
    omega
  · intro h
    by_contra hc
    have hm := hmax (by omega) (by omega)
    have hlt : max r.base t.base < addrSpace := by omega
    refine h (max r.base t.base) hlt ⟨?_, ?_⟩
    · rw [Span.has_of_not_wraps hr hlt]
      omega
    · rw [Span.has_of_not_wraps ht hlt]
      omega

theorem inSpans_iff (rs : List Span) (a : Nat) : inSpans rs a = true ↔ ∃ r ∈ rs, r.has a = true := by
  simp [inSpans]

/-- Lists of regions without wrap are apart, pair by pair, exactly when no byte is in both. -/
theorem spans_apart_iff {rs ws : List Span} (hr : ∀ r ∈ rs, r.wraps = false) (hw : ∀ w ∈ ws, w.wraps = false) :
    (∀ r ∈ rs, ∀ w ∈ ws, r.apart w = true) ↔
      ∀ a, a < addrSpace → ¬(inSpans rs a = true ∧ inSpans ws a = true) := by
  simp only [inSpans_iff]
  constructor
  · rintro h a ha ⟨⟨r, hmr, hra⟩, w, hmw, hwa⟩
    exact (Span.apart_iff (hr r hmr) (hw w hmw)).mp (h r hmr w hmw) a ha ⟨hra, hwa⟩
  · intro h r hmr w hmw
    exact (Span.apart_iff (hr r hmr) (hw w hmw)).mpr fun a ha ⟨hra, hwa⟩ => h a ha ⟨⟨r, hmr, hra⟩, w, hmw, hwa⟩

/-- Settles O52: the other clauses of the contract are the hypotheses. -/
theorem contractIsDisjointness : Obligations.ContractIsDisjointness := by
  intro i s hint hall hbm
  have hr : ∀ r ∈ readSpans i s.op, r.wraps = false := fun r hm => (hall r (List.mem_append_left _ hm)).1
  have hw : ∀ r ∈ writeSpans i s.op, r.wraps = false := fun r hm => (hall r (List.mem_append_right _ hm)).1
  rw [contractHeld_iff, ← spans_apart_iff hr hw]
  exact ⟨fun ⟨_, _, h, _⟩ => h, fun h => ⟨hint, hall, h, hbm⟩⟩

/-! ## Windows and blocks -/

/-- Intervals of one length whose starts rise from 0 by at most that length cover one interval. -/
theorem interval_iff_exists {f : Nat → Nat} {c : Nat} (h0 : f 0 = 0) (hup : ∀ g, f g ≤ f (g + 1))
    (hstep : ∀ g, f (g + 1) ≤ f g + c) (n a : Nat) :
    a < f n + c ↔ ∃ g, g < n + 1 ∧ f g ≤ a ∧ a < f g + c := by
  induction n with
  | zero =>
    refine ⟨fun h => ⟨0, Nat.one_pos, by omega, h⟩, ?_⟩
    rintro ⟨g, hg, -, h⟩
    rwa [Nat.lt_one_iff.mp hg] at h
  | succ n ih =>
    constructor
    · intro h
      by_cases ha : f (n + 1) ≤ a
      · exact ⟨n + 1, Nat.lt_succ_self _, ha, h⟩
      · obtain ⟨g, hg, hga⟩ := ih.mp (by have := hstep n; omega)
        exact ⟨g, Nat.lt_succ_of_lt hg, hga⟩
    · rintro ⟨g, hg, hle, hlt⟩
      rcases Nat.lt_succ_iff_lt_or_eq.mp hg with hg | rfl
      · have := ih.mpr ⟨g, hg, hle, hlt⟩
        have := hup n
        omega
      · exact hlt

/-- The same at a base, for a region of `n` intervals that is empty when there is none. -/
theorem region_iff_exists {f : Nat → Nat} {c : Nat} (h0 : f 0 = 0) (hup : ∀ g, f g ≤ f (g + 1))
    (hstep : ∀ g, f (g + 1) ≤ f g + c) (n base a : Nat) :
    (base ≤ a ∧ a < base + if n = 0 then 0 else f (n - 1) + c) ↔
      ∃ g, g < n ∧ base + f g ≤ a ∧ a < base + f g + c := by
  cases n with
  | zero => simp
  | succ n =>
    rw [if_neg (Nat.succ_ne_zero n), Nat.add_sub_cancel]
    constructor
    · rintro ⟨hb, ha⟩
      obtain ⟨g, hg, h1, h2⟩ := (interval_iff_exists h0 hup hstep n (a - base)).mp (by omega)
      exact ⟨g, hg, by omega, by omega⟩
    · rintro ⟨g, hg, h1, h2⟩
      have := (interval_iff_exists h0 hup hstep n (a - base)).mpr ⟨g, hg, by omega, by omega⟩
      omega

theorem ceilDiv_eq_zero_iff {n l : Nat} (hl : 0 < l) : ceilDiv n l = 0 ↔ n = 0 := by
  rw [ceilDiv, Nat.div_eq_zero_iff]
  omega

theorem lt_ceilDiv_iff {n l g : Nat} (hl : 0 < l) : g < ceilDiv n l ↔ g * l < n := by
  rw [ceilDiv, Nat.lt_iff_add_one_le, Nat.le_div_iff_mul_le hl, Nat.add_mul]
  omega

theorem le_ceilDiv_mul (n : Nat) {l : Nat} (hl : 0 < l) : n ≤ ceilDiv n l * l :=
  Nat.not_lt.mp fun h => (Nat.lt_irrefl _) ((lt_ceilDiv_iff hl).mpr h)

/-- Consecutive lane-groups of `l` values of at most 16 bits are at most `2·l` bytes apart. -/
theorem byteOff_succ_le {w l : Nat} (hw : w ≤ 16) (hl : l = 4 ∨ l = 8) (g : Nat) :
    byteOff w l g ≤ byteOff w l (g + 1) ∧ byteOff w l (g + 1) ≤ byteOff w l g + 2 * l := by
  have hlw : l * w ≤ l * 16 := Nat.mul_le_mul_left l hw
  rw [byteOff, byteOff, show (g + 1) * l * w = g * l * w + l * w by ring]
  rcases hl with rfl | rfl <;> omega

/-- Settles O50: consecutive windows, and consecutive block pairs, touch or overlap. -/
theorem windowRegionIsTheUnionOfWindows : Obligations.WindowRegionIsTheUnionOfWindows := by
  refine ⟨fun o l a _ hw hl => ?_, fun o a _ hw => ?_⟩
  · have hlen : (windowSpan o l).len =
        if ceilDiv o.n.toNat l = 0 then 0 else byteOff o.w.toNat l (ceilDiv o.n.toNat l - 1) + 4 * l := by
      simp only [ceilDiv_eq_zero_iff (n := o.n.toNat) (l := l) (by omega)]
      rfl
    rw [hlen]
    exact region_iff_exists (f := byteOff o.w.toNat l) (by simp [byteOff]) (fun g => (byteOff_succ_le hw hl g).1)
      (fun g => by have := (byteOff_succ_le hw hl g).2; omega) _ _ _
  · have hlen : (blockSpan o).len = if ceilDiv o.n.toNat 4 = 0 then 0
        else 16 * (byteOff o.w.toNat 4 (ceilDiv o.n.toNat 4 - 1) / 16) + 32 := by
      simp only [ceilDiv_eq_zero_iff (n := o.n.toNat) (l := 4) (by omega)]
      rfl
    rw [hlen]
    exact region_iff_exists (f := fun g => 16 * (byteOff o.w.toNat 4 g / 16)) (by simp [byteOff])
      (fun g => by have := byteOff_succ_le hw (.inl rfl) g; omega)
      (fun g => by have := byteOff_succ_le hw (.inl rfl) g; omega) _ _ _

/-! ## Sizes -/

/-- The window and the block pair of the last lane-group begin inside the live bytes. -/
theorem byteOff_le_liveBytes {w n l g : Nat} (hl : 0 < l) (hg : g < ceilDiv n l) : byteOff w l g ≤ liveBytes w n := by
  have h : g * l * w ≤ n * w := Nat.mul_le_mul_right w ((lt_ceilDiv_iff hl).mp hg).le
  rw [byteOff, liveBytes, ceilDiv, Nat.mul_comm w n]
  omega

theorem liveWords_le (w n : Nat) : liveBytes w n ≤ 8 * liveWords w n ∧ 8 * liveWords w n ≤ liveBytes w n + 7 := by
  simp only [liveBytes, liveWords, ceilDiv]
  omega

theorem windowSpan_len_le (o : Latches) {l : Nat} (hl : 0 < l) :
    (windowSpan o l).len ≤ compressedSize o.w.toNat o.n.toNat l := by
  simp only [windowSpan, compressedSize, vpad]
  split
  · exact Nat.zero_le _
  · next h0 =>
    have h := byteOff_le_liveBytes (w := o.w.toNat) (n := o.n.toNat) (g := ceilDiv o.n.toNat l - 1) hl
      (Nat.sub_lt (Nat.pos_of_ne_zero ((ceilDiv_eq_zero_iff hl).not.mpr h0)) Nat.one_pos)
    exact Nat.add_le_add_right h _

theorem blockSpan_len_le (o : Latches) : (blockSpan o).len ≤ compressedSize o.w.toNat o.n.toNat 8 := by
  simp only [blockSpan, compressedSize, vpad]
  split
  · exact Nat.zero_le _
  · next h0 =>
    have h := byteOff_le_liveBytes (w := o.w.toNat) (n := o.n.toNat) (g := ceilDiv o.n.toNat 4 - 1) (l := 4) (by decide)
      (Nat.sub_lt (Nat.pos_of_ne_zero ((ceilDiv_eq_zero_iff (by decide)).not.mpr h0)) Nat.one_pos)
    rw [byteOff] at h
    omega

theorem compressedSize_le_packedSize (w n l : Nat) : compressedSize w n l ≤ packedSize w n l := by
  have h := liveWords_le w n
  simp only [compressedSize, packedSize]
  have := le_ceilDiv_mul (liveWords w n) (l := 4) (by decide)
  omega

/-- The regions DECODE writes are inside the decoded array. -/
theorem decodes_write_len {i : Instr} (hi : i ∈ decodes) {o : Latches} {r : Span} (hr : r ∈ writeSpans i o) :
    r.len ≤ decodedSize o.n.toNat := by
  have group (l : Nat) (hl : l = 4 ∨ l = 8) : 4 * l * ceilDiv o.n.toNat l ≤ decodedSize o.n.toNat := by
    unfold ceilDiv decodedSize
    rcases hl with rfl | rfl <;> omega
  cases i
  case decodeS => rw [List.mem_singleton.mp hr]; exact Nat.le_add_right _ _
  case decodeV256 | decodeV256V => rw [List.mem_singleton.mp hr]; exact group 8 (.inr rfl)
  case decodeV128 | decodeV128M | decodeV128A | decodeV128U => rw [List.mem_singleton.mp hr]; exact group 4 (.inl rfl)
  all_goals exact absurd hi (by decide)

theorem bitmapLen_le (i : Instr) (n : Nat) : bitmapLen i n ≤ bitmapSize n := by
  have hc : 4 * ceilDiv n 32 ≤ bitmapSize n := by simp only [ceilDiv, bitmapSize]; omega
  cases i
  case scanV128U | shscanH4 | shscanH8 => exact hc
  all_goals exact Nat.le_add_right _ _

/-- The regions of the bitmaps, in SCAN and in the separate layout, have the length of a bitmap. -/
theorem bitmap_write_len {i : Instr} (hi : i ∈ scans ++ separateScans) {o : Latches} {r : Span}
    (hr : r ∈ writeSpans i o) : r.len = bitmapLen i o.n.toNat := by
  have separate : r ∈ bitmapSpans o (bitmapLen i o.n.toNat) → r.len = bitmapLen i o.n.toNat := by
    intro h
    obtain ⟨x, -, rfl⟩ := List.mem_map.mp h
    rfl
  cases i
  case scanS | scanV128 | scanV256 | scanV128I | scanV256I | scanV128U =>
    rw [writeSpans, List.mem_singleton] at hr
    rw [hr]
  case shscanV128 | shscanV256 | shscanT | shscanH4 | shscanH8 => exact separate hr
  all_goals exact absurd hi (by decide)

/-- Settles O51: each region against its formula. -/
theorem footprintsFitTheSizes : Obligations.FootprintsFitTheSizes := by
  intro o _ _
  refine ⟨?_, windowSpan_len_le o (by decide), windowSpan_len_le o (by decide), blockSpan_len_le o,
    compressedSize_le_packedSize _ _ 4, compressedSize_le_packedSize _ _ 8, fun i hi r hr => decodes_write_len hi hr,
    fun i hi r hr => (bitmap_write_len hi hr).trans_le (bitmapLen_le i _)⟩
  have := liveWords_le o.w.toNat o.n.toNat
  simp only [liveSpan, compressedSize, vpad]
  omega

end Sys2Proof.Machine

/-! PROOFS. Every command writes inside its write footprint (spec/20_memory.md R76): first the stores of the units, then the
body of each command. -/

namespace Sys2Proof.Machine

/-! ## Frames -/

/-- The second memory differs from the first at most inside the regions. -/
def Frame (ws : List Span) (m m' : Memory) : Prop := ∀ a, inSpans ws a = false → byteAt m' a = byteAt m a

/-- One of the regions contains the `n` bytes at `b`. -/
def Covers (ws : List Span) (b n : Nat) : Prop := ∃ r ∈ ws, r.base ≤ b ∧ b + n ≤ r.base + r.len

theorem Covers.part {ws : List Span} {b n b' n' : Nat} (h : Covers ws b n) (hlo : b ≤ b') (hhi : b' + n' ≤ b + n) :
    Covers ws b' n' := by
  obtain ⟨r, hr, h1, h2⟩ := h
  exact ⟨r, hr, by omega, by omega⟩

theorem covers_singleton (b n : Nat) : Covers [⟨b, n⟩] b n := ⟨_, List.mem_singleton_self _, le_rfl, le_rfl⟩

/-- The bitmap of each key is one of the regions of the separate layout. -/
theorem covers_bitmapSpans (j : Job) (len : Nat) {x : Nat} (hx : x < j.k) :
    Covers (bitmapSpans j.op len) (bitmapBase j x) len :=
  ⟨_, List.mem_map.mpr ⟨x, List.mem_range.mpr hx, rfl⟩, le_rfl, le_rfl⟩

theorem Span.has_of_mem {r : Span} {k a : Nat} (hk : k < r.len) (ha : (r.base + k) % addrSpace = a % addrSpace) :
    r.has a = true := by
  unfold Span.has addrSpace at *
  simp only [decide_eq_true_eq]
  omega

/-- A covered address is in the regions. -/
theorem Covers.inSpans_eq_true {ws : List Span} {b n k a : Nat} (h : Covers ws b n) (hk : k < n)
    (ha : (b + k) % addrSpace = a % addrSpace) : inSpans ws a = true := by
  obtain ⟨r, hr, h1, h2⟩ := h
  exact (inSpans_iff ws a).mpr
    ⟨r, hr, Span.has_of_mem (k := b + k - r.base) (by omega) (by rwa [show r.base + (b + k - r.base) = b + k by omega])⟩

theorem Frame.refl (ws : List Span) (m : Memory) : Frame ws m m := fun _ _ => rfl

/-- A covered write keeps a frame. -/
theorem Frame.write {ws : List Span} {m m' : Memory} {b n : Nat} (h : Frame ws m m') (hc : Covers ws b n) (v : Nat) :
    Frame ws m (memWrite m' b n v) := by
  intro a ha
  rw [byteAt_memWrite_ne m' v fun k hk he => ?_, h a ha]
  exact absurd (hc.inSpans_eq_true hk he) (by simp [ha])

theorem Frame.fillAll {ws : List Span} (draw : Nat) (m : Memory) : Frame ws m (fillAll draw ws m) :=
  fun _ ha => byteAt_fillAll_ne draw ws m ha

/-- A loop over the engine whose passes keep a frame keeps it. -/
theorem Frame.passes {ws : List Span} {m : Memory} {e : Engine} {n : Nat} {f : Nat → Engine → Engine}
    (h : Frame ws m e.mem) (hs : ∀ i x, i < n → Frame ws m x.mem → Frame ws m (f i x).mem) : Frame ws m (upto n f e).mem :=
  upto_inv (fun _ (x : Engine) => Frame ws m x.mem) h hs

/-- What the cursor keeps: a property that neither the index nor the cursor's registers touch and that each emission keeps. -/
theorem cursor_inv_emit {j : Job} {emit : Emit} {e : Engine} (P : Engine → Prop) (h0 : P e)
    (hP : ∀ f i c, P f → P { f with idx := i, sbc := c }) (hidx : ∀ i x f, (emit i x f).idx = f.idx)
    (he : ∀ i x f, i < j.n → P f → P (emit i x f)) : P (cursor j emit e) := by
  refine (cursor_inv (fun f => f.idx ≤ j.n ∧ P f) ⟨Nat.zero_le _, hP e _ _ h0⟩ (fun f c h => ⟨h.1, hP f f.idx c h.2⟩)
    fun f ⟨hi, hf⟩ hn => ?_).2
  have hlt := Nat.lt_of_le_of_ne hi hn
  simp only [emitField, hidx]
  exact ⟨hlt, hP _ _ (emit f.idx (f.sbc.field j.w) f).sbc (he f.idx _ f hlt hf)⟩

/-- A loop whose passes keep a frame keeps it. -/
theorem Frame.upto {ws : List Span} {m m' : Memory} {n : Nat} {f : Nat → Memory → Memory} (h : Frame ws m m')
    (hs : ∀ i x, i < n → Frame ws m x → Frame ws m (f i x)) : Frame ws m (upto n f m') :=
  upto_inv (fun _ => Frame ws m) h hs

/-! ## PACK -/

/-- Where the write cursor of the packer stands, in bits of the output. -/
structure PackAt (pos : Nat) (e : Engine) : Prop where
  rem_pos : 0 < e.bpe.rem
  rem_le : e.bpe.rem ≤ 64
  pos_eq : 64 * e.bpe.wordIndex + (64 - e.bpe.rem) = pos

/-- Packing a value of `w` bits moves the cursor by `w`, whatever the index becomes. -/
theorem packValue_packAt {w pos : Nat} (hw : w ≤ 16) (dst v idx : Nat) {e : Engine} (h : PackAt pos e) :
    PackAt (pos + w) { packValue w dst v e with idx := idx } := by
  obtain ⟨h0, h64, hp⟩ := h
  unfold packValue
  simp only
  split
  · constructor <;> simp only <;> omega
  · split
    · constructor <;> simp only [Engine.storeWord] <;> omega
    · constructor <;> simp only [Engine.storeWord] <;> omega

theorem storeWord_frame {ws : List Span} {m : Memory} {e : Engine} {dst : Nat} (acc : Word) (rem : Nat)
    (h : Frame ws m e.mem) (hc : Covers ws (dst + 8 * e.bpe.wordIndex) 8) : Frame ws m (e.storeWord dst acc rem).mem :=
  h.write hc _

/-- A value is packed into words that end at most at the new place of the cursor. -/
theorem packValue_frame {ws : List Span} {m : Memory} {w pos : Nat} {e : Engine} {dst : Nat} (v : Nat) (hp : PackAt pos e)
    (h : Frame ws m e.mem) (hc : ∀ k, 64 * (k + 1) ≤ pos + w → Covers ws (dst + 8 * k) 8) :
    Frame ws m (packValue w dst v e).mem := by
  obtain ⟨h0, h64, hpos⟩ := hp
  unfold packValue
  simp only
  split
  · exact h
  · split
    · exact storeWord_frame (e := { e with bpe := _ }) _ _ h (hc e.bpe.wordIndex (by omega))
    · exact storeWord_frame (e := { e with bpe := _ }) _ _ h (hc e.bpe.wordIndex (by omega))

/-- What holds before the packer's loop and is kept by each value packed holds where the loop ends. -/
theorem packEntries_ok_inv {j : Job} {e : Engine} (P : Nat → Engine → Prop) (h0 : P 0 e) {n : Nat}
    (hs : ∀ i v f, i < n → P i f → P (i + 1) { packValue j.w j.dst v f with idx := i + 1 }) {f : Engine}
    (hf : packEntries j n e = .ok f) : P n f := by
  induction n generalizing f with
  | zero =>
    cases hf
    exact h0
  | succ n ih =>
    rw [packEntries] at hf
    split at hf
    · next g hg =>
      rw [packEntry] at hf
      split at hf <;> cases hf
      exact hs n _ g (Nat.lt_succ_self n) (ih (fun i v f hi => hs i v f (Nat.lt_succ_of_lt hi)) hg)
    · cases hf

/-- A word that begins before the end of the last live word is in the packed buffer. -/
theorem word_in_packedSize {w n l k : Nat} (h : 64 * k < w * n) : 8 * k + 8 ≤ packedSize w n l := by
  have hk := (lt_ceilDiv_iff (n := w * n) (l := 64) (g := k) (by decide)).mpr (by omega)
  have := le_ceilDiv_mul (liveWords w n) (l := 4) (by decide)
  rw [packedSize]
  rw [← liveWords] at hk
  omega

theorem packFlush_frame {ws : List Span} {m : Memory} {e : Engine} {dst pos : Nat} (hp : PackAt pos e)
    (h : Frame ws m e.mem) (hc : ∀ k, 64 * k < pos → Covers ws (dst + 8 * k) 8) : Frame ws m (packFlush dst e).mem := by
  obtain ⟨-, -, hpos⟩ := hp
  unfold packFlush
  split
  · exact storeWord_frame _ _ h (hc _ (by omega))
  · exact h

theorem packPadding_frame {ws : List Span} {m m' : Memory} {j : Job} {l : Nat} (hl : l = 4 ∨ l = 8) (h : Frame ws m m')
    (hc : Covers ws j.dst (packedSize j.w j.n l)) : Frame ws m (packPadding j l m') := by
  refine h.upto fun k x hk hx => hx.write (hc.part (by omega) ?_) _
  rw [packedSize]
  have : vpad l = 8 * (vpad l / 8) := by rcases hl with rfl | rfl <;> rfl
  omega

theorem packBody_frame {i : Instr} {j : Job} (e : Engine) (hw : j.w ≤ 16) (hl : laneCount i = 4 ∨ laneCount i = 8)
    (hc : Covers (writeSpans i j.op) j.dst (packedSize j.w j.n (laneCount i))) :
    Frame (writeSpans i j.op) e.mem (packBody i j e).engine.mem := by
  have word (k : Nat) (hk : 64 * k < j.w * j.n) : Covers (writeSpans i j.op) (j.dst + 8 * k) 8 :=
    hc.part (by omega) (by have := word_in_packedSize (l := laneCount i) hk; omega)
  unfold packBody
  split
  · exact Frame.fillAll j.draw e.mem
  · next f hf =>
    obtain ⟨hat, hfr⟩ := packEntries_ok_inv (e := { e with idx := 0, bpe := ⟨0, 64, 0⟩ })
      (fun x f => PackAt (j.w * x) f ∧ Frame (writeSpans i j.op) e.mem f.mem) ⟨⟨Nat.zero_lt_succ _, le_rfl, rfl⟩, Frame.refl _ _⟩
      (fun x v f hx ⟨hat, hfr⟩ => by
        have hle : j.w * (x + 1) ≤ j.w * j.n := Nat.mul_le_mul_left _ hx
        rw [Nat.mul_succ] at hle
        exact ⟨packValue_packAt hw _ v _ hat, packValue_frame v hat hfr fun k hk => word k (by omega)⟩)
      hf
    exact packPadding_frame hl (packFlush_frame hat hfr word) hc

/-! ## MASKGEN -/

theorem storeLanes_frame {ws : List Span} {m m' : Memory} {b : Nat} {v : List Lane} (h : Frame ws m m')
    (hc : Covers ws b (4 * v.length)) : Frame ws m (storeLanes b v m') :=
  h.upto fun _ _ hk hx => hx.write (hc.part (by omega) (by omega)) _

theorem storeShuffle_frame {ws : List Span} {m m' : Memory} {b : Nat} {v : List Nat} (h : Frame ws m m')
    (hc : Covers ws b v.length) : Frame ws m (storeShuffle b v m') :=
  h.upto fun _ _ hk hx => hx.write (hc.part (by omega) (by omega)) _

theorem storeSet_frame {ws : List Span} {m m' : Memory} {b : Nat} (w l q : Nat) (key : BitVec 16) (h : Frame ws m m')
    (hc : Covers ws b (28 * l)) : Frame ws m (storeSet l b (maskSet w l q (some key)) m') := by
  have lanes {m' : Memory} (d : Nat) (f : Nat → Lane) (hd : d + 4 * l ≤ 28 * l) (h : Frame ws m m') :
      Frame ws m (storeLanes (b + d) (lanesOf l f) m') :=
    storeLanes_frame h (hc.part (by omega) (by rw [length_lanesOf]; omega))
  have hs : Frame ws m (storeShuffle b (maskSet w l q (some key)).shuffle m') :=
    storeShuffle_frame h (hc.part le_rfl (by rw [maskSet, length_lanesOf]; omega))
  unfold storeSet
  exact lanes _ _ (by omega) <| lanes _ _ (by omega) <| lanes _ _ (by omega) <| lanes _ _ (by omega) <|
    lanes _ _ (by omega) <| lanes _ _ (by omega) hs

theorem maskgenBody_frame {ws : List Span} {l : Nat} {j : Job} (e : Engine) (hc : Covers ws j.dst (56 * l)) :
    Frame ws e.mem (maskgenBody l j e).engine.mem := by
  unfold maskgenBody
  exact storeSet_frame _ l 1 _ (storeSet_frame _ l 0 _ (Frame.refl ws e.mem) (hc.part le_rfl (by omega)))
    (hc.part (by omega) (by omega))

/-! ## DECODE -/

theorem storeGroup_frame {ws : List Span} {m m' : Memory} {j : Job} {l g n : Nat} (r : List Lane) (h : Frame ws m m')
    (hg : g < n) (hc : Covers ws j.dst (4 * l * n)) : Frame ws m (storeGroup j l g r m') := by
  have hle : (g + 1) * l ≤ n * l := Nat.mul_le_mul_right l hg
  rw [Nat.add_mul, Nat.one_mul] at hle
  rw [Nat.mul_assoc, Nat.mul_comm l] at hc
  exact h.upto fun x _ hx hf => hf.write (hc.part (by omega) (by omega)) _

theorem decodeGroup_frame {ws : List Span} {m : Memory} {j : Job} {l g n : Nat} (load : LoadWindow) (realign : Realign)
    {e : Engine} (h : Frame ws m e.mem) (hg : g < n) (hc : Covers ws j.dst (4 * l * n)) :
    Frame ws m (decodeGroup j l load realign g e).mem := storeGroup_frame _ h hg hc

theorem decodeVectorBody_frame {ws : List Span} {l : Nat} (load : Job → LoadWindow) (realign : Nat → Realign) {j : Job}
    (e : Engine) (hc : Covers ws j.dst (4 * l * groups j.n l)) :
    Frame ws e.mem (decodeVectorBody l load realign j e).engine.mem := by
  rw [decodeVectorBody, RunEnd.engine_done]
  exact Frame.passes (Frame.refl ws e.mem) fun _ _ hg hf => decodeGroup_frame _ _ hf hg hc

/-- A loop in blocks of at most `c` passes is the plain loop. -/
theorem upto_blocks {α : Type} (f : Nat → α → α) (c n q : Nat) (a : α) :
    upto q (fun u => upto (min c (n - c * u)) fun h => f (c * u + h)) a = upto (min (c * q) n) f a := by
  induction q with
  | zero => rw [Nat.mul_zero, Nat.zero_min]; rfl
  | succ q ih =>
    rw [upto, ih]
    rcases Nat.le_total (c * q) n with hle | hle
    · rw [Nat.mul_succ, show min (c * q + c) n = c * q + min c (n - c * q) by omega, upto_add, Nat.min_eq_left hle]
    · rw [Nat.mul_succ, show min c (n - c * q) = 0 by omega, Nat.min_eq_right hle, Nat.min_eq_right (by omega)]
      rfl

/-- The passes of DECODE.V128U are the lane-groups in order (spec/43_vector_unpacker.md R213). -/
theorem bodyOf_decodeV128U : bodyOf .decodeV128U = bodyOf .decodeV128 := by
  funext j e
  have hle := le_ceilDiv_mul (groups j.n 4) (l := 8) (by decide)
  have hpass : decodePass j = fun u => upto (min 8 (groups j.n 4 - 8 * u)) fun h =>
      decodeGroup j 4 (loadUnaligned j 4) (realignMul j.w) (8 * u + h) := rfl
  rw [bodyOf, bodyOf, decodeUnrolledBody, decodeVectorBody, hpass, upto_blocks, Nat.min_eq_right (by omega)]

theorem decodeScalarBody_frame {ws : List Span} {j : Job} (e : Engine) (hc : Covers ws j.dst (4 * j.n)) :
    Frame ws e.mem (decodeScalarBody j e).engine.mem := by
  rw [decodeScalarBody, RunEnd.engine_done]
  exact cursor_inv_emit (fun f => Frame ws e.mem f.mem) (Frame.refl _ _) (fun _ _ _ h => h) (fun _ _ _ => rfl)
    fun i _ f hi hf => hf.write (hc.part (by omega) (by omega)) _

/-! ## SCAN -/

/-- The granule of a value is one of the bitmap's. -/
theorem granule_in_bitmap {n gb i : Nat} (hgb : 0 < gb) (hi : i < n) :
    gb * granuleOf gb i + gb ≤ gb * ceilDiv n (8 * gb) := by
  have hg : granuleOf gb i < ceilDiv n (8 * gb) :=
    (lt_ceilDiv_iff (by omega)).mpr (Nat.lt_of_le_of_lt (Nat.div_mul_le_self i _) hi)
  exact Nat.mul_succ gb _ ▸ Nat.mul_le_mul_left gb hg

theorem matchGroup_frame {ws : List Span} {m : Memory} {j : Job} {l gb dst g : Nat} (cmp : Compare) {sm : Scanner × Memory}
    (h : Frame ws m sm.2) (hgb : 0 < gb) (hg : g * l < j.n) (hc : Covers ws dst (gb * ceilDiv j.n (8 * gb))) :
    Frame ws m (matchGroup j l gb dst cmp g sm).2 := by
  unfold matchGroup
  simp only
  split
  · have := granule_in_bitmap hgb hg
    exact h.write (hc.part (by omega) (by omega)) _
  · exact h

theorem scanBuffer_frame {ws : List Span} {m : Memory} {j : Job} {l gb dst : Nat} (cmp : Compare) (key : BitVec 16)
    {sm : Scanner × Memory} (h : Frame ws m sm.2) (hl : 0 < l) (hgb : 0 < gb)
    (hc : Covers ws dst (gb * ceilDiv j.n (8 * gb))) : Frame ws m (scanBuffer j l gb cmp key dst sm).2 := by
  unfold scanBuffer
  refine upto_inv (a := (startScanner j.w l key sm.1, sm.2)) (fun _ (sm : Scanner × Memory) => Frame ws m sm.2) h
    fun g sm hg h => ?_
  exact matchGroup_frame (sm := (_, sm.2)) cmp h hgb ((lt_ceilDiv_iff hl).mp hg) hc

theorem scanVectorBody_frame {ws : List Span} {j : Job} {l gb : Nat} (cmp : Compare) (e : Engine) (hl : 0 < l)
    (hgb : 0 < gb) (hc : Covers ws j.dst (gb * ceilDiv j.n (8 * gb))) :
    Frame ws e.mem (scanVectorBody l gb cmp j e).engine.mem :=
  scanBuffer_frame (sm := (e.scan, e.mem)) cmp j.op.key (Frame.refl ws e.mem) hl hgb hc

theorem emitMatch_frame {ws : List Span} {m : Memory} {j : Job} {i : Nat} (x : BitVec 16) {e : Engine}
    (h : Frame ws m e.mem) (hi : i < j.n) (hc : Covers ws j.dst (ceilDiv j.n 8)) : Frame ws m (emitMatch j i x e).mem := by
  unfold emitMatch
  simp only
  split
  · have := granule_in_bitmap (gb := 1) (by decide) hi
    simp only [granuleOf, Nat.mul_one, Nat.one_mul] at this
    exact h.write (hc.part (by omega) (by omega)) _
  · exact h

theorem emitMatch_idx (j : Job) (i : Nat) (x : BitVec 16) (e : Engine) : (emitMatch j i x e).idx = e.idx := by
  unfold emitMatch
  simp only
  split <;> rfl

theorem scanScalarBody_frame {ws : List Span} {j : Job} (e : Engine) (hc : Covers ws j.dst (ceilDiv j.n 8)) :
    Frame ws e.mem (scanScalarBody j e).engine.mem := by
  rw [scanScalarBody, RunEnd.engine_done]
  exact cursor_inv_emit (fun f => Frame ws e.mem f.mem) (Frame.refl _ _) (fun _ _ _ h => h) (emitMatch_idx j)
    fun _ x _ hi hf => emitMatch_frame x hf hi hc

/-! ## SHSCAN -/

theorem octetGroup_mem (j : Job) (l t h : Nat) (e : Engine) : (octetGroup j l t h e).mem = e.mem := by
  unfold octetGroup
  simp only
  split <;> rfl

theorem octetPass_frame {ws : List Span} {m : Memory} {j : Job} (l : Nat) (il : Bool) (t : Nat) {e : Engine}
    (h : Frame ws m e.mem) (hc : ∀ x, x < j.k → Covers ws (octetAddr j il t x) 1) :
    Frame ws m (octetPass j l il t e).mem := by
  have hg : Frame ws m (upto (8 / l) (octetGroup j l t) e).mem :=
    Frame.passes h fun x f _ hf => (octetGroup_mem j l t x f).symm ▸ hf
  have hk : Frame ws m (upto j.k (octetKey j il t) (upto (8 / l) (octetGroup j l t) e)).mem :=
    Frame.passes hg fun x _ hx hf => hf.write (hc x hx) _
  exact hk

theorem verticalBody_frame {ws : List Span} {j : Job} (l : Nat) (il : Bool) (e : Engine)
    (hc : ∀ t x, t < ceilDiv j.n 8 → x < j.k → Covers ws (octetAddr j il t x) 1) :
    Frame ws e.mem (verticalBody l il j e).engine.mem := by
  unfold verticalBody
  simp only
  split
  · exact Frame.refl ws e.mem
  · rw [RunEnd.engine_done]
    exact Frame.passes (Frame.refl ws e.mem) fun t _ ht hf => octetPass_frame l il t hf fun x hx => hc t x ht hx

theorem covers_octet_separate {ws : List Span} {j : Job} {t x : Nat}
    (hc : ∀ x, x < j.k → Covers ws (bitmapBase j x) (ceilDiv j.n 8)) (ht : t < ceilDiv j.n 8) (hx : x < j.k) :
    Covers ws (octetAddr j false t x) 1 :=
  (hc x hx).part (Nat.le_add_right _ _) (by simp only [octetAddr, Bool.false_eq_true, if_false]; omega)

theorem covers_octet_interleaved {ws : List Span} {j : Job} {t x : Nat} (hc : Covers ws j.dst (j.k * ceilDiv j.n 8))
    (ht : t < ceilDiv j.n 8) (hx : x < j.k) : Covers ws (octetAddr j true t x) 1 := by
  have hle : (t + 1) * j.k ≤ ceilDiv j.n 8 * j.k := Nat.mul_le_mul_right _ ht
  rw [Nat.add_mul, Nat.one_mul, Nat.mul_comm (ceilDiv _ _)] at hle
  exact hc.part (by simp only [octetAddr, if_true]; omega) (by simp only [octetAddr, if_true]; omega)

/-- The keys of a group stay broadcast, and each has a bitmap. -/
theorem emitKeys_frame {ws : List Span} {m : Memory} {j : Job} {first i nk : Nat} (x : BitVec 16) {e : Engine}
    (h : Frame ws m e.mem ∧ e.ssm.bcast.length = nk) (hi : i < j.n)
    (hc : ∀ c, c < nk → Covers ws (bitmapBase j (first + c)) (4 * ceilDiv j.n 32)) :
    Frame ws m (emitKeys j first i x e).mem ∧ (emitKeys j first i x e).ssm.bcast.length = nk := by
  have hgr := granule_in_bitmap (gb := 4) (by decide) hi
  simp only [granuleOf, show 8 * 4 = 32 from rfl] at hgr
  unfold emitKeys
  simp only
  split
  · refine upto_inv (a := { e with ssm := accumulate i x e.ssm }) (f := flushLane j first i)
      (fun _ f => Frame ws m f.mem ∧ f.ssm.bcast.length = nk) h fun c f hlt ⟨hf, hb⟩ => ⟨?_, hb⟩
    have hcn : c < nk := h.2 ▸ hlt
    exact hf.write ((hc c hcn).part (by omega) (by omega)) _
  · exact h

theorem emitKeys_idx (j : Job) (first i : Nat) (x : BitVec 16) (e : Engine) : (emitKeys j first i x e).idx = e.idx := by
  unfold emitKeys
  simp only
  split
  · exact upto_inv (a := { e with ssm := accumulate i x e.ssm }) (f := flushLane j first i)
      (fun _ (f : Engine) => f.idx = e.idx) rfl fun _ _ _ hf => hf
  · rfl

theorem keyGroup_frame {ws : List Span} {m : Memory} {j : Job} {l jg : Nat} {e : Engine} (h : Frame ws m e.mem)
    (hc : ∀ x, x < j.k → Covers ws (bitmapBase j x) (4 * ceilDiv j.n 32)) : Frame ws m (keyGroup j l jg e).mem := by
  unfold keyGroup
  refine And.left (cursor_inv_emit (fun f => Frame ws m f.mem ∧ f.ssm.bcast.length = min l (j.k - jg * l)) ⟨h, ?_⟩
    (fun _ _ _ h => h) (emitKeys_idx j _) fun i x f hi hf => emitKeys_frame x hf hi fun c hcn => hc _ (by omega))
  rw [List.length_map, List.length_range]

theorem horizontalBody_frame {ws : List Span} {j : Job} (l : Nat) (e : Engine)
    (hc : ∀ x, x < j.k → Covers ws (bitmapBase j x) (4 * ceilDiv j.n 32)) :
    Frame ws e.mem (horizontalBody l j e).engine.mem := by
  rw [horizontalBody, RunEnd.engine_done]
  exact Frame.passes (Frame.refl ws e.mem) fun _ _ _ hf => keyGroup_frame hf hc

theorem workerKey_frame {ws : List Span} {m : Memory} {j : Job} (w : Nat) {x : Nat} {e : Engine} (h : Frame ws m e.mem)
    (hc : Covers ws (bitmapBase j x) (ceilDiv j.n 8)) : Frame ws m (workerKey j w x e).mem :=
  scanBuffer_frame (sm := (_, e.mem)) _ _ h (by decide) Nat.one_pos (by simpa using hc)

theorem threadedBody_frame {ws : List Span} {j : Job} (e : Engine)
    (hc : ∀ x, x < j.k → Covers ws (bitmapBase j x) (ceilDiv j.n 8)) :
    Frame ws e.mem (threadedBody j e).engine.mem := by
  rw [threadedBody, RunEnd.engine_done]
  refine Frame.passes (Frame.refl ws e.mem) fun w f _ hf => ?_
  rw [workerRun]
  exact Frame.passes hf fun d _ hd hf => workerKey_frame w hf (hc _ (by omega))

/-! ## Every command -/

theorem bodyOf_frame {i : Instr} {j : Job} (e : Engine) (hw : j.w ≤ 16) :
    Frame (writeSpans i j.op) e.mem (bodyOf i j e).engine.mem := by
  cases i
  case decodeV128U => rw [bodyOf_decodeV128U, bodyOf]; exact decodeVectorBody_frame _ _ e (covers_singleton _ _)
  all_goals unfold bodyOf
  case pack128 => exact packBody_frame e hw (.inl rfl) (covers_singleton _ _)
  case pack256 => exact packBody_frame e hw (.inr rfl) (covers_singleton _ _)
  case maskgen128 | maskgen256 => exact maskgenBody_frame e (covers_singleton _ _)
  case decodeS => exact decodeScalarBody_frame e (covers_singleton _ _)
  case decodeV128 | decodeV256 | decodeV128M | decodeV128A | decodeV256V =>
    exact decodeVectorBody_frame _ _ e (covers_singleton _ _)
  case scanS => exact scanScalarBody_frame e (covers_singleton _ _)
  case scanV128 | scanV256 | scanV128I | scanV256I =>
    exact scanVectorBody_frame _ e (by decide) Nat.one_pos (by rw [Nat.one_mul]; exact covers_singleton _ _)
  case scanV128U => exact scanVectorBody_frame _ e (by decide) (by decide) (covers_singleton _ _)
  case shscanV128 | shscanV256 =>
    exact verticalBody_frame _ false e fun t x => covers_octet_separate fun x hx => covers_bitmapSpans j _ hx
  case shscanV128X | shscanV256X =>
    exact verticalBody_frame _ true e fun t x => covers_octet_interleaved (covers_singleton _ _)
  case shscanH4 | shscanH8 => exact horizontalBody_frame _ e fun x hx => covers_bitmapSpans j _ hx
  case shscanT => exact threadedBody_frame e fun x hx => covers_bitmapSpans j _ hx

/-- Settles O43: an error at START writes nothing, a run outside the contract fills its write footprint, a body keeps to it. -/
theorem nothingOutsideTheWriteFootprintChanges : Obligations.NothingOutsideTheWriteFootprintChanges := by
  intro i s t a h _ ha
  rcases exec_cases h with ⟨x, -, rfl⟩ | ⟨-, -, rfl⟩ | ⟨hs, -, rfl⟩
  · rfl
  · rw [State.conclude_eng, outOfContract_engine]
    exact Frame.fillAll s.draw s.eng.mem a ha
  · obtain ⟨-, hw, -, -⟩ := startStop_none hs
    rw [State.conclude_eng]
    exact bodyOf_frame (j := s.job) s.eng hw a ha

end Sys2Proof.Machine

/-! PROOFS. What the readers of a compressed buffer extract is the field of spec/20_memory.md R64: the lanes of the vector
pipeline (spec/43_vector_unpacker.md R201 to R204, R214), and the values the scalar cursor emits (spec/42_scalar_codec.md
R181, R182). -/

namespace Sys2Proof.Machine

/-! ## Bits of the stream -/

theorem fieldAt_testBit (m : Memory) (a w i k : Nat) :
    (fieldAt m a w i).testBit k = (decide (k < w) && streamBit m a (w * i + k)) := bitsOf_testBit _ _ _

/-- A stream from a later byte is the same stream further on. -/
theorem streamBit_add (m : Memory) (a d b : Nat) : streamBit m (a + d) b = streamBit m a (8 * d + b) := by
  rw [streamBit, streamBit, show a + (8 * d + b) / 8 = a + d + b / 8 by omega, show (8 * d + b) % 8 = b % 8 by omega]

/-- The fields below `n` of streams that agree below `w·n` are equal. -/
theorem fieldAt_congr {m m' : Memory} {a w n i : Nat} (h : ∀ b, b < w * n → streamBit m a b = streamBit m' a b)
    (hi : i < n) : fieldAt m a w i = fieldAt m' a w i := by
  have hle : w * (i + 1) ≤ w * n := Nat.mul_le_mul_left w hi
  rw [Nat.mul_succ] at hle
  exact bitsOf_congr fun k hk => h _ (by omega)

/-! ## Realignment -/

/-- The operand widths and lane-group sizes of the vector commands, the set and the lane. -/
structure LegalLane (w l q x : Nat) : Prop where
  w_pos : 1 ≤ w
  w_le : w ≤ 16
  l_eq : l = 4 ∨ l = 8
  q_lt : q < 2
  x_lt : x < l

/-- The field of a lane of the shuffled window: the `w` bits from the shift count of its mask set. -/
def rawField (w l q x : Nat) (raw : Lane) : Nat := raw.toNat / 2 ^ laneShift w l q x % 2 ^ w

theorem rawField_testBit (w l q x : Nat) (raw : Lane) (k : Nat) :
    (rawField w l q x raw).testBit k = (decide (k < w) && raw.getLsbD (laneShift w l q x + k)) := by
  rw [rawField, Nat.testBit_mod_two_pow, Nat.testBit_div_two_pow, Nat.add_comm]
  rfl

theorem rawField_lt (w l q x : Nat) (raw : Lane) : rawField w l q x raw < 2 ^ w := Nat.mod_lt _ (Nat.two_pow_pos w)

/-- A way to realign that leaves exactly the field of the lane. -/
def ExtractsField (w : Nat) (realign : Realign) : Prop :=
  ∀ l q x key raw, LegalLane w l q x → (realign (maskSet w l q key) x raw).toNat = rawField w l q x raw

theorem mult_maskSet {l x : Nat} (w q : Nat) (key : Option (BitVec 16)) (hx : x < l) :
    (maskSet w l q key).mult.getD x 0 = BitVec.ofNat 32 (2 ^ (32 - w - laneShift w l q x)) := getD_lanesOf _ _ _ hx

theorem shcnt_maskSet {l x : Nat} (w q : Nat) (key : Option (BitVec 16)) (hx : x < l) :
    (maskSet w l q key).shcnt.getD x 0 = BitVec.ofNat 32 (laneShift w l q x) := getD_lanesOf _ _ _ hx

theorem cleanIn_maskSet {l x : Nat} (w q : Nat) (key : Option (BitVec 16)) (hx : x < l) :
    (maskSet w l q key).cleanIn.getD x 0 = BitVec.ofNat 32 ((2 ^ w - 1) <<< laneShift w l q x) := getD_lanesOf _ _ _ hx

theorem cleanRe_maskSet {l x : Nat} (w q : Nat) (key : Option (BitVec 16)) (hx : x < l) :
    (maskSet w l q key).cleanRe.getD x 0 = BitVec.ofNat 32 (2 ^ w - 1) := getD_lanesOf _ _ _ hx

/-- The clean mask keeps the low `w` bits. -/
theorem and_cleanRe_toNat {w : Nat} (hw : w ≤ 16) (v : Lane) :
    (v &&& BitVec.ofNat 32 (2 ^ w - 1)).toNat = v.toNat % 2 ^ w := by
  have hp : 2 ^ w ≤ 2 ^ 16 := Nat.pow_le_pow_right (by decide) hw
  rw [BitVec.toNat_and, BitVec.toNat_ofNat, Nat.mod_eq_of_lt (by omega), Nat.and_two_pow_sub_one_eq_mod]

/-- The multiplier moves the field to the top of the lane, the fixed shift brings it down to bit 0. -/
theorem realignMul_extractsField (w : Nat) : ExtractsField w (realignMul w) := by
  rintro l q x key raw ⟨h1, h16, -, -, hx⟩
  have hs := laneShift_lt w l q x
  rw [realignMul, mult_maskSet w q key hx, rawField]
  generalize laneShift w l q x = s at *
  obtain ⟨c, hc⟩ : ∃ c, 32 - w - s = c := ⟨_, rfl⟩
  have hpow : 2 ^ c < 2 ^ 32 := Nat.pow_lt_pow_right (by decide) (by omega)
  rw [hc, BitVec.toNat_ushiftRight, BitVec.toNat_mul, BitVec.toNat_ofNat, Nat.mod_eq_of_lt hpow, Nat.shiftRight_eq_div_pow]
  calc raw.toNat * 2 ^ c % 2 ^ 32 / 2 ^ (32 - w)
      = 2 ^ c * raw.toNat % (2 ^ c * (2 ^ s * 2 ^ w)) / (2 ^ c * 2 ^ s) := by
        rw [Nat.mul_comm raw.toNat, ← Nat.pow_add, ← Nat.pow_add, ← Nat.pow_add]
        congr 3 <;> omega
    _ = raw.toNat / 2 ^ s % 2 ^ w := by
        rw [Nat.mul_mod_mul_left, Nat.mul_div_mul_left _ _ (Nat.two_pow_pos c), Nat.mod_mul_right_div_self]

theorem realignMulMask_extractsField (w : Nat) : ExtractsField w (realignMulMask w) := by
  intro l q x key raw h
  rw [realignMulMask, cleanRe_maskSet w q key h.x_lt, and_cleanRe_toNat h.w_le, realignMul_extractsField w l q x key raw h,
    Nat.mod_eq_of_lt (rawField_lt w l q x raw)]

theorem realignShift_extractsField (w : Nat) : ExtractsField w realignShift := by
  rintro l q x key raw ⟨h1, h16, -, -, hx⟩
  have hs : laneShift w l q x < 2 ^ 32 := (laneShift_lt w l q x).trans (by decide)
  rw [realignShift, cleanRe_maskSet w q key hx, and_cleanRe_toNat h16, shcnt_maskSet w q key hx, rawField,
    BitVec.toNat_ushiftRight, BitVec.toNat_ofNat, Nat.mod_eq_of_lt hs, Nat.shiftRight_eq_div_pow]

/-- The field that is compared in place is the field of the lane, still at its shift. -/
theorem and_cleanIn_toNat {w l q x : Nat} (h : LegalLane w l q x) (key : Option (BitVec 16)) (raw : Lane) :
    (raw &&& (maskSet w l q key).cleanIn.getD x 0).toNat = rawField w l q x raw <<< laneShift w l q x := by
  obtain ⟨-, h16, -, -, hx⟩ := h
  have hs := laneShift_lt w l q x
  rw [cleanIn_maskSet w q key hx]
  refine Nat.eq_of_testBit_eq fun b => ?_
  rw [Nat.testBit_shiftLeft, rawField_testBit, BitVec.testBit_toNat, BitVec.getLsbD_and, BitVec.getLsbD_ofNat,
    Nat.testBit_shiftLeft, Nat.testBit_two_pow_sub_one]
  by_cases hb : laneShift w l q x ≤ b
  · have hlt : b - laneShift w l q x < w → b < 32 := by omega
    rw [show laneShift w l q x + (b - laneShift w l q x) = b by omega]
    by_cases hbw : b - laneShift w l q x < w
    · simp [hb, hbw, hlt hbw]
    · simp [hbw]
  · simp [hb]

/-! ## The window -/

/-- Bit `i` of a window of bytes, the first byte lowest. -/
def windowBit (b : List Byte) (i : Nat) : Bool := (byteOf b (i / 8)).testBit (i % 8)

/-- The field of lane `x` in a window: the `w` bits from the lane's offset (spec/40_mask_factory.md R131). -/
def windowField (b : List Byte) (w l q x : Nat) : Nat := bitsOf (fun k => windowBit b (laneOff w l q x + k)) w

theorem byteOf_lt (b : List Byte) (k : Nat) : byteOf b k < 256 := (b.getD k 0).isLt

/-- Bits of four bytes joined little-endian. -/
theorem testBit_four_bytes {b : Nat → Nat} (hb : ∀ k, b k < 256) {k : Nat} (hk : k < 32) :
    (b 0 + 2 ^ 8 * b 1 + 2 ^ 16 * b 2 + 2 ^ 24 * b 3).testBit k = (b (k / 8)).testBit (k % 8) := by
  have e : b 0 + 2 ^ 8 * b 1 + 2 ^ 16 * b 2 + 2 ^ 24 * b 3 = 2 ^ 8 * (2 ^ 8 * (2 ^ 8 * b 3 + b 2) + b 1) + b 0 := by omega
  rw [e, Nat.testBit_two_pow_mul_add _ (hb 0), Nat.testBit_two_pow_mul_add _ (hb 1), Nat.testBit_two_pow_mul_add _ (hb 2)]
  split
  · next h => rw [show k / 8 = 0 by omega, show k % 8 = k by omega]
  · split
    · next h => rw [show k / 8 = 1 by omega, show k % 8 = k - 8 by omega]
    · split
      · next h => rw [show k / 8 = 2 by omega, show k % 8 = k - 8 - 8 by omega]
      · rw [show k / 8 = 3 by omega, show k % 8 = k - 8 - 8 - 8 by omega]

/-- A lane of the shuffled window holds the window's bits from the lane's source byte. -/
theorem shuffleLane_getLsbD {l x k : Nat} (w q : Nat) (key : Option (BitVec 16)) (b : List Byte) (hx : x < l) (hk : k < 32) :
    (shuffleLane (maskSet w l q key).shuffle b x).getLsbD k = windowBit b (8 * laneByte w l q x + k) := by
  have h0 : (maskSet w l q key).shuffle.getD (4 * x) 0 = laneByte w l q x := shuffle_maskSet w l q key hx (k := 0) (by decide)
  have hbytes := testBit_four_bytes (b := fun k => byteOf b (laneByte w l q x + k)) (fun _ => byteOf_lt _ _) hk
  rw [Nat.add_zero] at hbytes
  rw [shuffleLane, h0, shuffle_maskSet w l q key hx (by decide), shuffle_maskSet w l q key hx (by decide),
    shuffle_maskSet w l q key hx (by decide), BitVec.getLsbD_ofNat, hbytes, windowBit,
    show (8 * laneByte w l q x + k) / 8 = laneByte w l q x + k / 8 by omega,
    show (8 * laneByte w l q x + k) % 8 = k % 8 by omega]
  simp [hk]

/-- The field of a shuffled lane is the lane's field in the window. -/
theorem rawField_shuffleLane {w l q x : Nat} (h : LegalLane w l q x) (key : Option (BitVec 16)) (b : List Byte) :
    rawField w l q x (shuffleLane (maskSet w l q key).shuffle b x) = windowField b w l q x := by
  obtain ⟨-, h16, -, -, hx⟩ := h
  have hs := laneShift_lt w l q x
  have hoff : laneOff w l q x = 8 * laneByte w l q x + laneShift w l q x := (Nat.div_add_mod _ 8).symm
  refine Nat.eq_of_testBit_eq fun k => ?_
  rw [rawField_testBit, windowField, bitsOf_testBit]
  by_cases hk : k < w
  · rw [shuffleLane_getLsbD w q key b hx (by omega), hoff, Nat.add_assoc]
  · simp [hk]

/-- Where a lane's field stands in the stream: lane-groups of `l` values of `w` bits begin on a byte or, each second one
of an odd number of half bytes, in its middle (spec/40_mask_factory.md R130, R131). -/
theorem byteOff_add_laneOff {l : Nat} (w g x : Nat) (hl : l = 4 ∨ l = 8) :
    8 * byteOff w l g + laneOff w l (g % 2) x = w * (g * l + x) := by
  rw [byteOff, laneOff, phase, Nat.mul_add w, Nat.mul_comm w (g * l)]
  have hmod : g * l * w % 8 = g % 2 * (l * w % 8) := by
    rw [Nat.mul_assoc, Nat.mul_mod]
    have hr : l * w % 8 = 0 ∨ l * w % 8 = 4 := by rcases hl with rfl | rfl <;> omega
    rcases hr with hr | hr <;> rw [hr] <;> omega
  omega

theorem laneOff_add_lt {w l q x : Nat} (h : LegalLane w l q x) {k : Nat} (hk : k < w) : laneOff w l q x + k < 32 * l := by
  obtain ⟨-, h16, hl, hq, hx⟩ := h
  have hm : w * x ≤ 16 * x := Nat.mul_le_mul_right x h16
  have hp : phase w l q ≤ 7 := by
    rw [phase]
    rcases Nat.lt_succ_iff_lt_or_eq.mp hq with hq | rfl
    · rw [Nat.lt_one_iff.mp hq, Nat.zero_mul]
      exact Nat.zero_le _
    · omega
  rw [laneOff]
  omega

/-- Windows with the same bits up to the end of value `i` hold the same field of value `i`. -/
theorem windowField_congr {w l g x : Nat} {b b' : List Byte} (h : LegalLane w l (g % 2) x)
    (hb : ∀ k, k < 32 * l → 8 * byteOff w l g + k < w * (g * l + x + 1) → windowBit b k = windowBit b' k) :
    windowField b w l (g % 2) x = windowField b' w l (g % 2) x := by
  have hpos := byteOff_add_laneOff w g x h.l_eq
  exact bitsOf_congr fun k hk => hb _ (laneOff_add_lt h hk) (by rw [Nat.mul_succ]; omega)

/-- A window that holds the stream from the lane-group's byte offset holds the field of each of its values. -/
theorem windowField_eq {S : Nat → Bool} {w l g x : Nat} {b : List Byte} (h : LegalLane w l (g % 2) x)
    (hb : ∀ k, k < 32 * l → windowBit b k = S (8 * byteOff w l g + k)) :
    windowField b w l (g % 2) x = bitsOf (fun k => S (w * (g * l + x) + k)) w := by
  have hpos := byteOff_add_laneOff w g x h.l_eq
  refine bitsOf_congr fun k hk => ?_
  rw [hb _ (laneOff_add_lt h hk), ← hpos, Nat.add_assoc]

theorem byteOf_memBytes (m : Memory) (a : Nat) {n k : Nat} (hk : k < n) : byteOf (memBytes m a n) k = (byteAt m (a + k)).toNat := by
  simp [byteOf, memBytes, hk]

theorem windowBit_memBytes (m : Memory) (a : Nat) {n i : Nat} (hi : i < 8 * n) :
    windowBit (memBytes m a n) i = streamBit m a i := by
  rw [windowBit, byteOf_memBytes m a (by omega), streamBit, BitVec.testBit_toNat]

/-- The unaligned load brings the fields of its lane-group into the window (spec/43_vector_unpacker.md R201). -/
theorem windowField_loadUnaligned {j : Job} {l g x : Nat} (h : LegalLane j.w l (g % 2) x) (m : Memory) (v : Vbu) :
    windowField (loadUnaligned j l g m v).window j.w l (g % 2) x = fieldAt m j.src j.w (g * l + x) := by
  refine windowField_eq h fun k hk => ?_
  rw [loadUnaligned, windowBit_memBytes _ _ (by omega), streamBit_add]

/-! ## The lanes of a lane-group -/

theorem raw_loadGroup {l x : Nat} (load : LoadWindow) (g : Nat) (m : Memory) (sc : Scanner) (hx : x < l) :
    (loadGroup l load g m sc).vbu.raw.getD x 0 =
      shuffleLane (sc.mfl.forGroup g).shuffle (load g m sc.vbu).window x := getD_lanesOf _ _ _ hx

/-- The field of a lane after the shuffle. -/
theorem rawField_loadGroup {w l g x : Nat} (h : LegalLane w l (g % 2) x) {key : Option (BitVec 16)} {sc : Scanner}
    (hm : sc.mfl = maskSets w l key) (load : LoadWindow) (m : Memory) :
    rawField w l (g % 2) x ((loadGroup l load g m sc).vbu.raw.getD x 0) =
      windowField (load g m sc.vbu).window w l (g % 2) x := by
  rw [raw_loadGroup load g m sc h.x_lt, hm, forGroup_maskSets, rawField_shuffleLane h]

/-- The value of a lane after the realignment. -/
theorem r_realignLanes {w l g x : Nat} (h : LegalLane w l (g % 2) x) {realign : Realign} (hr : ExtractsField w realign)
    {key : Option (BitVec 16)} {sc : Scanner} (hm : sc.mfl = maskSets w l key) :
    ((realignLanes l realign g sc).vbu.r.getD x 0).toNat = rawField w l (g % 2) x (sc.vbu.raw.getD x 0) := by
  have hlane : (realignLanes l realign g sc).vbu.r.getD x 0 = realign (sc.mfl.forGroup g) x (sc.vbu.raw.getD x 0) :=
    getD_lanesOf _ _ _ h.x_lt
  rw [hlane, hm, forGroup_maskSets, hr l (g % 2) x key _ h]

theorem r_realignGroup {w l g x : Nat} (h : LegalLane w l (g % 2) x) {realign : Realign} (hr : ExtractsField w realign)
    {key : Option (BitVec 16)} {sc : Scanner} (hm : sc.mfl = maskSets w l key) (load : LoadWindow) (m : Memory) :
    ((realignGroup l load realign g m sc).vbu.r.getD x 0).toNat = windowField (load g m sc.vbu).window w l (g % 2) x := by
  rw [realignGroup, r_realignLanes h hr (sc := loadGroup l load g m sc) hm, rawField_loadGroup h hm]

end Sys2Proof.Machine

/-! PROOFS. The scalar cursor is the loop that emits the fields in order (spec/42_scalar_codec.md R181, R182). -/

namespace Sys2Proof.Machine

/-- The emission of value `i`, as a pass of a plain loop over the values `f`. -/
def fieldPass (f : Nat → Nat) (emit : Emit) (i : Nat) (e : Engine) : Engine :=
  { emit i (BitVec.ofNat 16 (f i)) e with idx := i + 1 }

/-- An emission that touches neither the cursor's registers nor the index, over engines of which `K` holds: `K` says that the
live bits of the source are those of `m₀`, and each emission below `N` keeps it. -/
structure EmitsOver (j : Job) (emit : Emit) (m₀ : Memory) (K : Engine → Prop) : Prop where
  sbc : ∀ i x e c, emit i x { e with sbc := c } = { emit i x e with sbc := c }
  idx : ∀ i x e, (emit i x e).idx = e.idx
  source : ∀ e, K e → ∀ b, b < j.w * j.n → streamBit e.mem j.src b = streamBit m₀ j.src b
  registers : ∀ e i c, K e → K { e with idx := i, sbc := c }
  emits : ∀ i x e, i < j.n → K e → K (emit i x e)

/-- The values the cursor emits. -/
abbrev Job.field (j : Job) (m₀ : Memory) : Nat → Nat := fieldAt m₀ j.src j.w

/-- The cursor has emitted the first values and done nothing else but move. -/
structure CursorAt (j : Job) (emit : Emit) (m₀ : Memory) (K : Engine → Prop) (e₀ e : Engine) : Prop where
  idx_le : e.idx ≤ j.n
  kept : K e
  loop : e = { upto e.idx (fieldPass (j.field m₀) emit) { e₀ with idx := 0 } with sbc := e.sbc }

/-- `current` holds the stream from the next value on, up to the end of word `wi`. -/
structure InWord (j : Job) (m₀ : Memory) (e : Engine) : Prop where
  pos : j.w * e.idx + e.sbc.remaining = 64 * e.sbc.wi + 64
  remaining_le : e.sbc.remaining ≤ 64
  low : ∀ k, k < e.sbc.remaining → j.w * e.idx + k < j.w * j.n →
    e.sbc.current.getLsbD k = streamBit m₀ j.src (j.w * e.idx + k)
  high : ∀ k, e.sbc.remaining ≤ k → e.sbc.current.getLsbD k = false

/-- The next value begins `overflowBits` into word `wi`. -/
structure BeforeWord (j : Job) (e : Engine) : Prop where
  pos : j.w * e.idx = 64 * e.sbc.wi + e.sbc.overflowBits
  overflow_le : e.sbc.overflowBits ≤ 64

variable {j : Job} {emit : Emit} {m₀ : Memory} {K : Engine → Prop} {e₀ e : Engine}

/-- Moving the cursor's registers is no emission. -/
theorem CursorAt.move (h : CursorAt j emit m₀ K e₀ e) (hE : EmitsOver j emit m₀ K) (c : Sbc) :
    CursorAt j emit m₀ K e₀ { e with sbc := c } := by
  refine ⟨h.idx_le, hE.registers e e.idx c h.kept, ?_⟩
  have hl := h.loop
  generalize upto _ _ _ = u at hl
  rw [hl]

/-- Emitting the next value, where the bottom of `current` holds it. -/
theorem CursorAt.emitField (h : CursorAt j emit m₀ K e₀ e) (hE : EmitsOver j emit m₀ K) (hn : e.idx < j.n)
    (hf : e.sbc.field j.w = BitVec.ofNat 16 (j.field m₀ e.idx)) :
    CursorAt j emit m₀ K e₀ (emitField j.w emit e) ∧ (emitField j.w emit e).sbc = e.sbc ∧
      (emitField j.w emit e).idx = e.idx + 1 := by
  have hidx : (Machine.emitField j.w emit e).idx = e.idx + 1 := by simp only [Machine.emitField, hE.idx]
  have hsbc (f : Engine) (i : Nat) (x : BitVec 16) : (emit i x f).sbc = f.sbc := (congrArg Engine.sbc (hE.sbc i x f f.sbc) :)
  refine ⟨⟨hidx ▸ hn, ?_, ?_⟩, hsbc e _ _, hidx⟩
  · exact hE.registers _ _ _ (hE.emits _ _ e hn h.kept)
  · rw [hidx, upto]
    generalize hu : upto e.idx _ _ = u
    have hl := h.loop
    rw [hu] at hl
    simp only [Machine.emitField, hE.idx, hf, fieldPass]
    rw [hsbc e]
    conv_lhs => rw [show emit e.idx _ e = emit e.idx _ { u with sbc := e.sbc } from congrArg _ hl, hE.sbc]

/-- The next value, where the low bits of `current` are the stream's. -/
theorem field_eq_of_low (hn : e.idx < j.n)
    (hlow : ∀ k, k < j.w → j.w * e.idx + k < j.w * j.n →
      e.sbc.current.getLsbD k = streamBit m₀ j.src (j.w * e.idx + k)) :
    e.sbc.field j.w = BitVec.ofNat 16 (j.field m₀ e.idx) := by
  have hle : j.w * (e.idx + 1) ≤ j.w * j.n := Nat.mul_le_mul_left _ hn
  rw [Nat.mul_succ] at hle
  rw [Sbc.field]
  congr 1
  refine Nat.eq_of_testBit_eq fun k => ?_
  rw [Nat.testBit_mod_two_pow, fieldAt_testBit, BitVec.testBit_toNat]
  by_cases hk : k < j.w
  · rw [hlow k hk (by omega)]
  · simp [hk]

/-- A bit of word `wi` of the source is a bit of the stream. -/
theorem sourceWord_getLsbD (hE : EmitsOver j emit m₀ K) (hk : K e) (wi : Nat) {b : Nat} (hb : b < 64)
    (hn : 64 * wi + b < j.w * j.n) :
    (BitVec.ofNat 64 (memRead e.mem (j.src + 8 * wi) 8)).getLsbD b = streamBit m₀ j.src (64 * wi + b) := by
  have hbit : streamBit e.mem (j.src + 8 * wi) b = streamBit m₀ j.src (64 * wi + b) := by
    rw [streamBit_add, show 8 * (8 * wi) = 64 * wi by omega, hE.source e hk _ hn]
  rw [BitVec.getLsbD_ofNat, memRead_testBit, ← hbit, streamBit]
  simp [hb]

theorem loadCursorWord_inWord (hE : EmitsOver j emit m₀ K) (hk : K e) (h : BeforeWord j e) :
    InWord j m₀ (loadCursorWord j.src e) := by
  obtain ⟨hpos, hov⟩ := h
  refine ⟨by simp only [loadCursorWord]; omega, Nat.sub_le _ _, fun k hlt hn => ?_, fun k hge => ?_⟩
  · simp only [loadCursorWord] at hlt hn ⊢
    rw [BitVec.getLsbD_ushiftRight, sourceWord_getLsbD hE hk _ (by omega) (by omega), hpos, Nat.add_assoc]
  · simp only [loadCursorWord] at hge ⊢
    rw [BitVec.getLsbD_ushiftRight]
    exact BitVec.getLsbD_of_ge _ _ (by omega)

/-- The inner loop: it stops with all values emitted or less than a field left in the word. -/
theorem drainWord_inWord (hE : EmitsOver j emit m₀ K) (fuel : Nat) {e : Engine} (hat : CursorAt j emit m₀ K e₀ e)
    (hin : InWord j m₀ e) (hfuel : e.sbc.remaining ≤ fuel * j.w) :
    ∃ f, drainWord j.w j.n emit fuel e = f ∧ CursorAt j emit m₀ K e₀ f ∧ InWord j m₀ f ∧ f.sbc.wi = e.sbc.wi ∧
      (f.idx = j.n ∨ f.sbc.remaining ≤ j.w) := by
  induction fuel generalizing e with
  | zero => exact ⟨e, rfl, hat, hin, rfl, .inr (by omega)⟩
  | succ fuel ih =>
    rw [drainWord]
    split
    · next hc =>
      obtain ⟨hr, hn⟩ := hc
      have hf := field_eq_of_low hn fun k hk => hin.low k (by omega)
      obtain ⟨hemit, hsbc, hidx⟩ := hat.emitField hE hn hf
      have hnext : InWord j m₀ { Machine.emitField j.w emit e with
          sbc := { e.sbc with current := e.sbc.current >>> j.w, remaining := e.sbc.remaining - j.w } } := by
        obtain ⟨hpos, hle, hlow, hhigh⟩ := hin
        refine ⟨?_, (Nat.sub_le _ _).trans hle, fun k hlt hlast => ?_, fun k hge => ?_⟩
        · simp only [hidx, Nat.mul_succ]
          omega
        · simp only [hidx, Nat.mul_succ] at hlt hlast ⊢
          rw [BitVec.getLsbD_ushiftRight, hlow _ (by omega) (by omega), Nat.add_assoc]
        · simp only at hge ⊢
          rw [BitVec.getLsbD_ushiftRight, hhigh _ (by omega)]
      rw [Nat.succ_mul] at hfuel
      simp only [hsbc]
      exact ih (hemit.move hE _) hnext (by simp only; omega)
    · next hc =>
      refine ⟨e, rfl, hat, hin, rfl, ?_⟩
      have := hat.idx_le
      omega

/-- The straddling field is completed from the next word, and the cursor stands in that word. -/
theorem straddle_beforeWord (hE : EmitsOver j emit m₀ K) (hw : j.w ≤ 16) (hat : CursorAt j emit m₀ K e₀ e)
    (hin : InWord j m₀ e) (hn : e.idx < j.n) (hr : e.sbc.remaining ≤ j.w) :
    CursorAt j emit m₀ K e₀ (straddle j.src j.w emit e) ∧ (straddle j.src j.w emit e).sbc.wi = e.sbc.wi ∧
      j.w * (straddle j.src j.w emit e).idx = 64 * (e.sbc.wi + 1) + (straddle j.src j.w emit e).sbc.overflowBits ∧
      (straddle j.src j.w emit e).sbc.overflowBits ≤ 64 := by
  obtain ⟨hpos, hle, hlow, hhigh⟩ := hin
  let c : Sbc := { e.sbc with current := e.sbc.current |||
    (BitVec.ofNat 64 (memRead e.mem (j.src + 8 * (e.sbc.wi + 1)) 8) <<< e.sbc.remaining) }
  have hf : c.field j.w = BitVec.ofNat 16 (j.field m₀ e.idx) := by
    refine field_eq_of_low (e := { e with sbc := c }) hn fun k hk hlast => ?_
    simp only [c, BitVec.getLsbD_or, BitVec.getLsbD_shiftLeft] at hlast ⊢
    by_cases hkr : k < e.sbc.remaining
    · rw [hlow k hkr hlast]
      simp [hkr]
    · rw [hhigh k (by omega), sourceWord_getLsbD hE hat.kept _ (by omega) (by omega),
        show 64 * (e.sbc.wi + 1) + (k - e.sbc.remaining) = j.w * e.idx + k by omega]
      simp [hkr, show k < 64 by omega]
  obtain ⟨hemit, hsbc, hidx⟩ := (hat.move hE c).emitField hE hn hf
  have hst : straddle j.src j.w emit e =
      { Machine.emitField j.w emit { e with sbc := c } with sbc := { c with overflowBits := j.w - e.sbc.remaining } } := by
    rw [straddle]
    simp only [hsbc, c]
  rw [hst]
  refine ⟨hemit.move hE _, rfl, ?_, ?_⟩
  · simp only [hidx, Nat.mul_succ]
    omega
  · simp only
    omega

/-- A pass of the outer loop ends with all values emitted or before the next word. -/
theorem cursorPass_spec (hE : EmitsOver j emit m₀ K) (h1 : 1 ≤ j.w) (hw : j.w ≤ 16) (hat : CursorAt j emit m₀ K e₀ e)
    (hb : BeforeWord j e) :
    CursorAt j emit m₀ K e₀ (cursorPass j.src j.w j.n emit e) ∧
      ((cursorPass j.src j.w j.n emit e).idx = j.n ∨
        (BeforeWord j (cursorPass j.src j.w j.n emit e) ∧
          (cursorPass j.src j.w j.n emit e).sbc.wi = e.sbc.wi + 1)) := by
  have hload := loadCursorWord_inWord hE hat.kept hb
  obtain ⟨f, hf, hfat, hin, hwi, hend⟩ := drainWord_inWord hE 64 (hat.move hE (loadCursorWord j.src e).sbc) hload (by
    have := hload.remaining_le
    exact this.trans (Nat.le_mul_of_pos_right 64 h1))
  rw [cursorPass, show drainWord j.w j.n emit 64 (loadCursorWord j.src e) = f from hf]
  simp only
  split
  · next hn => exact ⟨hfat, .inl hn⟩
  · next hn =>
    have hlt := Nat.lt_of_le_of_ne hfat.idx_le hn
    have hr := hend.resolve_left hn
    split
    · obtain ⟨hsat, hswi, hpos, hov⟩ := straddle_beforeWord hE hw hfat hin hlt hr
      exact ⟨hsat.move hE _, .inr ⟨⟨by simpa only [hswi, hwi] using hpos, hov⟩, by simp only [hswi, hwi]; rfl⟩⟩
    · next h0 =>
      refine ⟨hfat.move hE _, .inr ⟨⟨?_, Nat.zero_le _⟩, by simp only [hwi]; rfl⟩⟩
      have := hin.pos
      simp only
      omega

/-- The outer loop emits all values: word `wi` begins at or before value `4·wi`, so fuel `N` is enough. -/
theorem cursorLoop_spec (hE : EmitsOver j emit m₀ K) (h1 : 1 ≤ j.w) (hw : j.w ≤ 16) (fuel : Nat) {e : Engine}
    (hat : CursorAt j emit m₀ K e₀ e) (hb : e.idx = j.n ∨ BeforeWord j e ∧ j.n ≤ e.sbc.wi + fuel) :
    CursorAt j emit m₀ K e₀ (cursorLoop j.src j.w j.n emit fuel e) ∧
      (cursorLoop j.src j.w j.n emit fuel e).idx = j.n := by
  induction fuel generalizing e with
  | zero =>
    refine ⟨hat, hb.elim id fun ⟨hbw, hfuel⟩ => ?_⟩
    have hle : j.w * e.idx ≤ 16 * e.idx := Nat.mul_le_mul_right _ hw
    have := hbw.pos
    have := hat.idx_le
    simp only [cursorLoop]
    omega
  | succ fuel ih =>
    rw [cursorLoop]
    split
    · next hn =>
      obtain ⟨hbw, hfuel⟩ := hb.resolve_left (by omega)
      obtain ⟨hpat, hp⟩ := cursorPass_spec hE h1 hw hat hbw
      exact ih hpat (hp.imp id fun ⟨hpb, hwi⟩ => ⟨hpb, by omega⟩)
    · exact ⟨hat, by have := hat.idx_le; omega⟩

/-- The cursor emits the `N` fields of the buffer in order and does nothing else but use its own registers (R182). -/
theorem cursor_eq_loop (hE : EmitsOver j emit m₀ K) (h1 : 1 ≤ j.w) (hw : j.w ≤ 16) (hk : K e₀) :
    K (cursor j emit e₀) ∧
      ∃ c, cursor j emit e₀ = { upto j.n (fieldPass (j.field m₀) emit) { e₀ with idx := 0 } with sbc := c } := by
  have hat : CursorAt j emit m₀ K e₀ { e₀ with idx := 0, sbc := ⟨0, 0, 0, 0⟩ } :=
    ⟨Nat.zero_le _, hE.registers e₀ 0 _ hk, rfl⟩
  obtain ⟨hend, hidx⟩ := cursorLoop_spec hE h1 hw j.n hat (.inr ⟨⟨rfl, Nat.zero_le _⟩, Nat.le_add_left _ _⟩)
  have hloop := hend.loop
  rw [hidx] at hloop
  exact ⟨hend.kept, (cursor j emit e₀).sbc, hloop⟩

end Sys2Proof.Machine

/-! PROOFS. Two runs of a command side by side, from memories that hold the same inputs: they make the same writes, and the
writes fill the whole write footprint (spec/20_memory.md R75 to R77). Here the relations between the two, PACK and MASKGEN. -/

namespace Sys2Proof.Machine

/-! ## Memories alike -/

/-- The addresses of the `len` bytes at `base`. -/
def Within (base len a : Nat) : Prop := base ≤ a ∧ a < base + len

/-- Canonical memories with the same `B` bits of the stream at `src` and the same bytes at the addresses of `P`. -/
structure Alike (src B : Nat) (P : Nat → Prop) (m m' : Memory) : Prop where
  wf : m.wf = true
  wf' : m'.wf = true
  stream : ∀ b, b < B → streamBit m src b = streamBit m' src b
  bytes : ∀ a, P a → byteAt m a = byteAt m' a

theorem Alike.mono {src B : Nat} {P Q : Nat → Prop} {m m' : Memory} (h : Alike src B P m m') (hQ : ∀ a, Q a → P a) :
    Alike src B Q m m' := ⟨h.wf, h.wf', h.stream, fun a ha => h.bytes a (hQ a ha)⟩

/-- After the same write into two memories an address reads the same, or it was not written and reads as before. -/
theorem byteAt_memWrite_cases {m m' : Memory} (hm : m.wf = true) (hm' : m'.wf = true) (b v : Nat) {n : Nat}
    (hn : n ≤ addrSpace) (a : Nat) :
    byteAt (memWrite m b n v) a = byteAt (memWrite m' b n v) a ∨
      (¬Within b n a ∧ byteAt (memWrite m b n v) a = byteAt m a ∧ byteAt (memWrite m' b n v) a = byteAt m' a) := by
  by_cases h : ∃ k, k < n ∧ (b + k) % addrSpace = a % addrSpace
  · obtain ⟨k, hk, he⟩ := h
    left
    rw [← byteAt_mod _ a, ← byteAt_mod (memWrite m' b n v) a, ← he, byteAt_mod, byteAt_mod, byteAt_memWrite hm v hk hn,
      byteAt_memWrite hm' v hk hn]
  · have hne : ∀ k, k < n → (b + k) % addrSpace ≠ a % addrSpace := fun k hk he => h ⟨k, hk, he⟩
    refine .inr ⟨fun ⟨hlo, hhi⟩ => hne (a - b) (by omega) (by rw [show b + (a - b) = a by omega]), ?_, ?_⟩
    · exact byteAt_memWrite_ne m v hne
    · exact byteAt_memWrite_ne m' v hne

/-- The same write keeps two memories alike, and alike where it writes. -/
theorem Alike.write {src B : Nat} {P Q : Nat → Prop} {m m' : Memory} (h : Alike src B P m m') (b v : Nat) {n : Nat}
    (hn : n ≤ addrSpace) (hQ : ∀ a, Q a → P a ∨ Within b n a) :
    Alike src B Q (memWrite m b n v) (memWrite m' b n v) := by
  refine ⟨memWrite_wf h.wf _ _ _, memWrite_wf h.wf' _ _ _, fun x hx => ?_, fun a ha => ?_⟩
  · have hs := h.stream x hx
    simp only [streamBit] at hs ⊢
    rcases byteAt_memWrite_cases h.wf h.wf' b v hn (src + x / 8) with he | ⟨-, he, he'⟩
    · rw [he]
    · rw [he, he', hs]
  · rcases byteAt_memWrite_cases h.wf h.wf' b v hn a with he | ⟨hout, he, he'⟩
    · exact he
    · rw [he, he', h.bytes a ((hQ a ha).resolve_right hout)]

/-- The same write at the end of the bytes known to be the same. -/
theorem Alike.append {src B d k b n : Nat} {m m' : Memory} (h : Alike src B (Within d k) m m') (hb : b = d + k) (v : Nat)
    (hn : n ≤ addrSpace) : Alike src B (Within d (k + n)) (memWrite m b n v) (memWrite m' b n v) :=
  h.write b v hn fun a ha => by unfold Within at *; omega

/-- Two loops side by side: a relation that holds at the start and that every pair of passes keeps holds at the end. -/
theorem upto_rel {α β : Type} {f : Nat → α → α} {g : Nat → β → β} {a : α} {b : β} (R : Nat → α → β → Prop) (h0 : R 0 a b)
    {n : Nat} (hs : ∀ i x y, i < n → R i x y → R (i + 1) (f i x) (g i y)) : R n (upto n f a) (upto n g b) := by
  induction n with
  | zero => exact h0
  | succ n ih => exact hs n _ _ (Nat.lt_succ_self n) (ih fun i x y hi => hs i x y (Nat.lt_succ_of_lt hi))

/-- Two loops of writes at the end of the bytes known to be the same. -/
theorem Alike.appends {src B d k c n : Nat} {m m' : Memory} {f g : Nat → Memory → Memory} (h : Alike src B (Within d k) m m')
    (hs : ∀ i x y, i < n → Alike src B (Within d (k + c * i)) x y →
      Alike src B (Within d (k + c * i + c)) (f i x) (g i y)) :
    Alike src B (Within d (k + c * n)) (upto n f m) (upto n g m') :=
  upto_rel (fun i => Alike src B (Within d (k + c * i))) h fun i x y hi hxy => by
    rw [Nat.mul_succ, ← Nat.add_assoc]
    exact hs i x y hi hxy

/-- Filling a region with the same draw. -/
theorem Alike.fillUnspec {src B : Nat} {P : Nat → Prop} {m m' : Memory} (h : Alike src B P m m') (draw : Nat) (r : Span) :
    Alike src B (fun a => P a ∨ Within r.base r.len a) (fillUnspec draw r m) (fillUnspec draw r m') := by
  refine upto_rel (fun i => Alike src B (fun a => P a ∨ Within r.base i a))
    (h.mono fun a ha => ha.resolve_right fun hw => absurd hw.2 (by have := hw.1; omega)) fun i x y _ hxy => ?_
  have hset (z : Memory) (u : Byte) : setByte z (r.base + i) u = memWrite z (r.base + i) 1 u.toNat := by simp [memWrite]
  rw [hset, hset]
  exact hxy.write _ _ (by decide) fun a ha => ha.elim (fun hp => .inl (.inl hp)) fun hw => by
    unfold Within at *
    omega

theorem Alike.fillAll {src B : Nat} {P : Nat → Prop} {m m' : Memory} (h : Alike src B P m m') (draw : Nat)
    (ws : List Span) :
    Alike src B (fun a => P a ∨ ∃ r ∈ ws, Within r.base r.len a) (fillAll draw ws m) (fillAll draw ws m') := by
  induction ws generalizing P m m' with
  | nil => exact h.mono fun a ha => ha.resolve_right (by simp)
  | cons r ws ih =>
    refine (ih (h.fillUnspec draw r)).mono fun a ha => ?_
    simpa [or_assoc] using ha

/-! ## Ends alike -/

/-- Two ends of a command with the same result and the same bytes in the regions. -/
inductive SameEnd (ws : List Span) : RunEnd → RunEnd → Prop
  | done {e e' : Engine} (n : BitVec 32) (h : ∀ r ∈ ws, ∀ a, Within r.base r.len a → byteAt e.mem a = byteAt e'.mem a) :
      SameEnd ws (.done e n) (.done e' n)
  | stop {e e' : Engine} (k : Nat) (h : ∀ r ∈ ws, ∀ a, Within r.base r.len a → byteAt e.mem a = byteAt e'.mem a) :
      SameEnd ws (.stop e k) (.stop e' k)

/-- Normal ends with memories alike over the one region of the write footprint. -/
theorem SameEnd.of_region {src B base len : Nat} {e e' : Engine} (n : BitVec 32)
    (h : Alike src B (Within base len) e.mem e'.mem) : SameEnd [⟨base, len⟩] (.done e n) (.done e' n) :=
  .done n fun r hr => by
    rw [List.mem_singleton.mp hr]
    exact h.bytes

/-- Normal ends with memories alike over every bitmap. -/
theorem SameEnd.of_bitmaps {src B len : Nat} {j : Job} {e e' : Engine} (n : BitVec 32)
    (h : Alike src B (fun a => ∃ x, x < j.k ∧ Within (bitmapBase j x) len a) e.mem e'.mem) :
    SameEnd (bitmapSpans j.op len) (.done e n) (.done e' n) :=
  .done n fun r hr a ha => by
    obtain ⟨x, hx, rfl⟩ := List.mem_map.mp hr
    exact h.bytes a ⟨x, List.mem_range.mp hx, ha⟩

/-! ## PACK -/

/-- Two packers at the same place, with the same column at `src` and the same words stored. -/
structure PackersAlike (j : Job) (e f : Engine) : Prop where
  bpe : e.bpe = f.bpe
  mem : Alike 0 0 (fun a => Within j.src (2 * j.n) a ∨ Within j.dst (8 * e.bpe.wordIndex) a) e.mem f.mem

theorem Alike.storeWord {j : Job} {k : Nat} {m m' : Memory}
    (h : Alike 0 0 (fun a => Within j.src (2 * j.n) a ∨ Within j.dst (8 * k) a) m m') (v : Nat) :
    Alike 0 0 (fun a => Within j.src (2 * j.n) a ∨ Within j.dst (8 * (k + 1)) a) (memWrite m (j.dst + 8 * k) 8 v)
      (memWrite m' (j.dst + 8 * k) 8 v) :=
  h.write _ v (by decide) fun a ha => by unfold Within at *; omega

theorem packValue_alike {j : Job} {e f : Engine} (h : PackersAlike j e f) (v idx : Nat) :
    PackersAlike j { packValue j.w j.dst v e with idx := idx } { packValue j.w j.dst v f with idx := idx } := by
  obtain ⟨hb, hm⟩ := h
  unfold packValue
  simp only [← hb]
  split
  · exact ⟨rfl, hm⟩
  · split
    · exact ⟨rfl, hm.storeWord _⟩
    · exact ⟨rfl, hm.storeWord _⟩

/-- The packer's loops end alike or stop at the same entry. -/
theorem packEntries_alike {j : Job} {e f : Engine} (h : PackersAlike j e f) {n : Nat} (hn : n ≤ j.n) :
    (∃ e' f', packEntries j n e = .ok e' ∧ packEntries j n f = .ok f' ∧ PackersAlike j e' f') ∨
    (∃ k e' f', packEntries j n e = .error (k, e') ∧ packEntries j n f = .error (k, f')) := by
  induction n with
  | zero => exact .inl ⟨e, f, rfl, rfl, h⟩
  | succ n ih =>
    rcases ih (Nat.le_of_succ_le hn) with ⟨e', f', he, hf, ha⟩ | ⟨k, e', f', he, hf⟩
    · have hv : memRead e'.mem (j.src + 2 * n) 2 = memRead f'.mem (j.src + 2 * n) 2 :=
        memRead_congr fun k hk => ha.mem.bytes _ (.inl (by unfold Within; omega))
      simp only [packEntries, he, hf, packEntry, ← hv]
      split
      · exact .inr ⟨n, e', f', rfl, rfl⟩
      · exact .inl ⟨_, _, rfl, rfl, packValue_alike ha _ _⟩
    · exact .inr ⟨k, e', f', by simp only [packEntries, he], by simp only [packEntries, hf]⟩

theorem packFlush_alike {j : Job} {e f : Engine} (h : PackersAlike j e f) :
    PackersAlike j (packFlush j.dst e) (packFlush j.dst f) := by
  unfold packFlush
  obtain ⟨hb, hm⟩ := h
  simp only [Engine.storeWord, ← hb]
  split
  · exact ⟨rfl, hm.storeWord _⟩
  · exact ⟨hb, hm⟩

/-- After the flush the packer has stored every word that holds a bit. -/
theorem packFlush_wordIndex {pos : Nat} {e : Engine} (h : PackAt pos e) (dst : Nat) :
    (packFlush dst e).bpe.wordIndex = ceilDiv pos 64 := by
  obtain ⟨h0, h64, hp⟩ := h
  unfold packFlush ceilDiv
  split
  · simp only [Engine.storeWord]
    omega
  · omega

theorem packPadding_alike {j : Job} {l : Nat} (hl : l = 4 ∨ l = 8) {m m' : Memory}
    (h : Alike 0 0 (Within j.dst (8 * liveWords j.w j.n)) m m') :
    Alike 0 0 (Within j.dst (packedSize j.w j.n l)) (packPadding j l m) (packPadding j l m') := by
  have hpad : vpad l = 8 * (vpad l / 8) := by rcases hl with rfl | rfl <;> rfl
  have hlw := le_ceilDiv_mul (liveWords j.w j.n) (l := 4) (by decide)
  unfold packPadding
  simp only
  refine (h.appends (c := 8) fun k x y _ hxy =>
    hxy.append (b := j.dst + 8 * (liveWords j.w j.n + k)) (n := 8) (by omega) 0 (by decide)).mono fun a ha => ?_
  unfold Within packedSize at *
  omega

theorem packBody_sameEnd {i : Instr} {j : Job} {e f : Engine} (hw : j.w ≤ 16) (hl : laneCount i = 4 ∨ laneCount i = 8)
    (hws : writeSpans i j.op = [⟨j.dst, packedSize j.w j.n (laneCount i)⟩])
    (h : Alike 0 0 (Within j.src (2 * j.n)) e.mem f.mem) :
    SameEnd (writeSpans i j.op) (packBody i j e) (packBody i j f) := by
  have h0 : PackersAlike j { e with idx := 0, bpe := ⟨0, 64, 0⟩ } { f with idx := 0, bpe := ⟨0, 64, 0⟩ } :=
    ⟨rfl, h.mono fun a ha => ha.resolve_right fun hw => absurd hw.2 (Nat.not_lt.mpr hw.1)⟩
  rcases packEntries_alike h0 le_rfl with ⟨e', f', he, hf, ha⟩ | ⟨k, e', f', he, hf⟩
  · have hat : PackAt (j.w * j.n) e' := packEntries_ok_inv (fun x f => PackAt (j.w * x) f)
      ⟨Nat.zero_lt_succ _, le_rfl, rfl⟩ (fun x v f _ hat => packValue_packAt hw _ v _ hat) he
    have hflush := (packFlush_alike ha).mem.mono (Q := Within j.dst (8 * liveWords j.w j.n)) fun a ha => by
      rw [packFlush_wordIndex hat]
      exact .inr ha
    rw [packBody, packBody, he, hf, hws]
    exact SameEnd.of_region 0 (packPadding_alike hl hflush)
  · rw [packBody, packBody, he, hf]
    exact .stop k fun r hr a ha => ((h.fillAll j.draw (writeSpans i j.op)).bytes a (.inr ⟨r, hr, ha⟩))

/-! ## MASKGEN -/

theorem storeLanes_alike {src B d k b : Nat} {m m' : Memory} (h : Alike src B (Within d k) m m') (hb : b = d + k)
    (v : List Lane) : Alike src B (Within d (k + 4 * v.length)) (storeLanes b v m) (storeLanes b v m') :=
  h.appends fun x _ _ _ hxy => hxy.append (by omega) _ (by decide)

theorem storeShuffle_alike {src B d k b : Nat} {m m' : Memory} (h : Alike src B (Within d k) m m') (hb : b = d + k)
    (v : List Nat) : Alike src B (Within d (k + 1 * v.length)) (storeShuffle b v m) (storeShuffle b v m') :=
  h.appends fun x _ _ _ hxy => hxy.append (by omega) _ (by decide)

theorem storeSet_alike {src B d k b : Nat} {m m' : Memory} (w l q : Nat) (key : BitVec 16)
    (h : Alike src B (Within d k) m m') (hb : b = d + k) :
    Alike src B (Within d (k + 28 * l)) (storeSet l b (maskSet w l q (some key)) m)
      (storeSet l b (maskSet w l q (some key)) m') := by
  have lanes {m m' : Memory} {c c' : Nat} (f : Nat → Lane) (hc : c' = c + 4 * l) (h : Alike src B (Within d (k + c)) m m') :
      Alike src B (Within d (k + c')) (storeLanes (b + c) (lanesOf l f) m) (storeLanes (b + c) (lanesOf l f) m') := by
    have hs := storeLanes_alike h (b := b + c) (by omega) (lanesOf l f)
    rwa [length_lanesOf, Nat.add_assoc, ← hc] at hs
  have hs : Alike src B (Within d (k + 4 * l)) (storeShuffle b (maskSet w l q (some key)).shuffle m)
      (storeShuffle b (maskSet w l q (some key)).shuffle m') := by
    have hs := storeShuffle_alike h hb (maskSet w l q (some key)).shuffle
    rwa [show (maskSet w l q (some key)).shuffle.length = 4 * l from length_lanesOf _ _, Nat.one_mul] at hs
  unfold storeSet
  exact lanes _ (by omega) <| lanes _ (by omega) <| lanes _ (by omega) <| lanes _ (by omega) <| lanes _ (by omega) <|
    lanes _ (by omega) hs

theorem maskgenBody_sameEnd {src B : Nat} {l : Nat} {j : Job} {e f : Engine}
    (h : Alike src B (fun _ => False) e.mem f.mem) :
    SameEnd [⟨j.dst, 56 * l⟩] (maskgenBody l j e) (maskgenBody l j f) := by
  have h0 : Alike src B (Within j.dst 0) e.mem f.mem := h.mono fun a ha => absurd ha.2 (Nat.not_lt.mpr ha.1)
  have h1 := storeSet_alike j.w l 0 j.op.key h0 rfl
  have h2 := storeSet_alike j.w l 1 j.op.key h1 (b := j.dst + 28 * l) (by omega)
  unfold maskgenBody
  exact SameEnd.of_region 0 (h2.mono fun a ha => by unfold Within at *; omega)

end Sys2Proof.Machine

/-! PROOFS. Two runs side by side of the commands on the vector pipeline (spec/43_vector_unpacker.md, spec/44_vector_scanner.md). -/

namespace Sys2Proof.Machine

/-! ## DECODE on the pipeline -/

/-- What two runs of a loader share: `C` relates the block caches before lane-group `g`. -/
structure LoadsAlike (j : Job) (l : Nat) (load : LoadWindow) (C : Nat → Vbu → Vbu → Prop) : Prop where
  start : ∀ v v', C 0 v v'
  registers : ∀ g v v' raw raw' r r' out off, C g v v' →
    C g { v with raw := raw, r := r, outputIndex := out, byteOff := off }
      { v' with raw := raw', r := r', outputIndex := out, byteOff := off }
  load : ∀ g m m' v v', (∀ b, b < j.w * j.n → streamBit m j.src b = streamBit m' j.src b) → C g v v' →
    C (g + 1) (load g m v) (load g m' v') ∧
      ∀ k, k < 32 * l → 8 * byteOff j.w l g + k < j.w * j.n →
        windowBit (load g m v).window k = windowBit (load g m' v').window k

theorem loadUnaligned_alike (j : Job) (l : Nat) : LoadsAlike j l (loadUnaligned j l) fun _ _ _ => True := by
  refine ⟨fun _ _ => trivial, fun _ _ _ _ _ _ _ _ _ _ => trivial, fun g m m' v v' hs _ => ⟨trivial, fun k hk hn => ?_⟩⟩
  rw [loadUnaligned, loadUnaligned, windowBit_memBytes _ _ (by omega), windowBit_memBytes _ _ (by omega), streamBit_add,
    streamBit_add, hs _ hn]

theorem memBytes_append (m : Memory) (a n k : Nat) : memBytes m a n ++ memBytes m (a + n) k = memBytes m a (n + k) := by
  simp [memBytes, List.range_add, Function.comp_def, Nat.add_assoc]

theorem windowBit_take_drop (b : List Byte) {d n i : Nat} (hi : i < 8 * n) :
    windowBit ((b.drop d).take n) i = windowBit b (8 * d + i) := by
  have hk : i / 8 < n := by omega
  rw [windowBit, windowBit, show (8 * d + i) / 8 = d + i / 8 by omega, show (8 * d + i) % 8 = i % 8 by omega]
  simp [byteOf, List.getD_eq_getElem?_getD, hk]

/-- Two caches of the same two blocks, with the same live bits. -/
def BlocksAlike (j : Job) (g : Nat) (v v' : Vbu) : Prop :=
  g ≠ 0 → v.blkNo = v'.blkNo ∧ ∀ k, k < 256 → 128 * v.blkNo + k < j.w * j.n →
    windowBit (v.blkLo ++ v.blkHi) k = windowBit (v'.blkLo ++ v'.blkHi) k

/-- The aligned loads bring the live bits of the window from blocks read now or kept (spec/43_vector_unpacker.md R212). -/
theorem loadAligned_alike (j : Job) : LoadsAlike j 4 (loadAligned j) (BlocksAlike j) := by
  refine ⟨fun _ _ h => absurd rfl h, fun _ _ _ _ _ _ _ _ _ h => h, fun g m m' v v' hs hc => ?_⟩
  have hblk : BlocksAlike j (g + 1) (loadAligned j g m v) (loadAligned j g m' v') ∧
      (loadAligned j g m v).blkNo = byteOff j.w 4 g / 16 := by
    by_cases hr : g = 0 ∨ byteOff j.w 4 g / 16 ≠ v.blkNo
    · have hr' : g = 0 ∨ byteOff j.w 4 g / 16 ≠ v'.blkNo := by
        by_cases h0 : g = 0
        · exact .inl h0
        · exact .inr ((hc h0).1 ▸ hr.resolve_left h0)
      simp only [loadAligned, if_pos hr, if_pos hr']
      refine ⟨fun _ => ⟨rfl, fun k hk hn => ?_⟩, trivial⟩
      simp only at hn ⊢
      rw [memBytes_append, memBytes_append, windowBit_memBytes _ _ hk, windowBit_memBytes _ _ hk, streamBit_add,
        streamBit_add, hs _ (by omega)]
    · obtain ⟨h0, hn⟩ := not_or.mp hr
      obtain ⟨hno, hbits⟩ := hc h0
      have hr' : ¬(g = 0 ∨ byteOff j.w 4 g / 16 ≠ v'.blkNo) := by rwa [← hno]
      simp only [loadAligned, if_neg hr, if_neg hr']
      exact ⟨fun _ => ⟨hno, hbits⟩, (not_not.mp hn).symm⟩
  obtain ⟨hblk, hno⟩ := hblk
  refine ⟨hblk, fun k hk hn => ?_⟩
  have hwin (m : Memory) (v : Vbu) : (loadAligned j g m v).window =
      (((loadAligned j g m v).blkLo ++ (loadAligned j g m v).blkHi).drop (byteOff j.w 4 g % 16)).take 16 := rfl
  rw [hwin, hwin, windowBit_take_drop _ hk, windowBit_take_drop _ hk]
  exact (hblk (Nat.succ_ne_zero g)).2 _ (by omega) (by rw [hno]; omega)

/-- The realigned lanes of values below `N` are the same. -/
theorem realignGroup_alike {j : Job} {l g x : Nat} {load : LoadWindow} {C : Nat → Vbu → Vbu → Prop} {realign : Realign}
    {key : Option (BitVec 16)} {sc sc' : Scanner} {m m' : Memory} (hload : LoadsAlike j l load C)
    (hr : ExtractsField j.w realign) (hlane : LegalLane j.w l (g % 2) x) (hx : g * l + x < j.n)
    (hs : ∀ b, b < j.w * j.n → streamBit m j.src b = streamBit m' j.src b) (hC : C g sc.vbu sc'.vbu)
    (hm : sc.mfl = maskSets j.w l key) (hm' : sc'.mfl = maskSets j.w l key) :
    (realignGroup l load realign g m sc).vbu.r.getD x 0 = (realignGroup l load realign g m' sc').vbu.r.getD x 0 := by
  have hle : j.w * (g * l + x + 1) ≤ j.w * j.n := Nat.mul_le_mul_left _ hx
  refine BitVec.eq_of_toNat_eq ?_
  rw [r_realignGroup hlane hr hm, r_realignGroup hlane hr hm']
  exact windowField_congr hlane fun k hk hn => (hload.load g m m' _ _ hs hC).2 k hk (by omega)

theorem storeGroup_alike {src B : Nat} {j : Job} {l g : Nat} {r r' : List Lane} {m m' : Memory}
    (h : Alike src B (Within j.dst (4 * l * g)) m m') (hr : ∀ x, x < l → g * l + x < j.n → r.getD x 0 = r'.getD x 0) :
    Alike src B (Within j.dst (4 * l * (g + 1))) (storeGroup j l g r m) (storeGroup j l g r' m') := by
  rw [Nat.mul_succ]
  refine h.appends fun x y y' hx hy => ?_
  have hv : (if g * l + x < j.n then (r.getD x 0).toNat else unspecAt j.draw (j.dst + 4 * (g * l + x)) 4) =
      if g * l + x < j.n then (r'.getD x 0).toNat else unspecAt j.draw (j.dst + 4 * (g * l + x)) 4 := by
    split
    · next hn => rw [hr x hx hn]
    · rfl
  simp only [hv]
  exact hy.append (b := j.dst + 4 * (g * l + x)) (n := 4) (by rw [Nat.mul_assoc, Nat.mul_comm l]; omega) _ (by decide)

/-- Two DECODE pipelines before lane-group `g`. -/
structure DecodersAlike (j : Job) (l : Nat) (C : Nat → Vbu → Vbu → Prop) (g : Nat) (e f : Engine) : Prop where
  mfl : e.scan.mfl = maskSets j.w l none
  mfl' : f.scan.mfl = maskSets j.w l none
  cache : C g e.scan.vbu f.scan.vbu
  mem : Alike j.src (j.w * j.n) (Within j.dst (4 * l * g)) e.mem f.mem

theorem decodeGroup_alike {j : Job} {l g : Nat} {load : LoadWindow} {C : Nat → Vbu → Vbu → Prop} {realign : Realign}
    {e f : Engine} (hload : LoadsAlike j l load C) (hr : ExtractsField j.w realign)
    (hlane : ∀ x, x < l → LegalLane j.w l (g % 2) x) (h : DecodersAlike j l C g e f) :
    DecodersAlike j l C (g + 1) (decodeGroup j l load realign g e) (decodeGroup j l load realign g f) := by
  obtain ⟨hm, hm', hC, hmem⟩ := h
  refine ⟨hm, hm', ?_, storeGroup_alike hmem fun x hx hn => realignGroup_alike hload hr (hlane x hx) hn hmem.stream hC hm hm'⟩
  exact hload.registers _ (load g e.mem e.scan.vbu) (load g f.mem f.scan.vbu) _ _ _ _ _ _ (hload.load g e.mem f.mem _ _ hmem.stream hC).1

theorem decodeVectorBody_sameEnd {j : Job} {l : Nat} {load : Job → LoadWindow} {realign : Nat → Realign}
    {C : Nat → Vbu → Vbu → Prop} {e f : Engine} (hw1 : 1 ≤ j.w) (hw : j.w ≤ 16) (hl : l = 4 ∨ l = 8)
    (hload : LoadsAlike j l (load j) C) (hr : ExtractsField j.w (realign j.w))
    (h : Alike j.src (j.w * j.n) (fun _ => False) e.mem f.mem) :
    SameEnd [⟨j.dst, 4 * l * groups j.n l⟩] (decodeVectorBody l load realign j e) (decodeVectorBody l load realign j f) := by
  have h0 : DecodersAlike j l C 0 { e with idx := 0, scan := startPipeline j.w l none e.scan }
      { f with idx := 0, scan := startPipeline j.w l none f.scan } :=
    ⟨rfl, rfl, hload.start _ _, h.mono fun a ha => absurd ha.2 (Nat.not_lt.mpr ha.1)⟩
  exact SameEnd.of_region 0 (upto_rel (DecodersAlike j l C) h0 fun g _ _ _ hg =>
    decodeGroup_alike hload hr (fun x hx => ⟨hw1, hw, hl, Nat.mod_lt g Nat.two_pos, hx⟩) hg).mem

/-! ## SCAN on the pipeline -/

/-- The granules of `gb` bytes that are written once the values below `i` have been compared. -/
def granulesDone (gb n i : Nat) : Nat := if n ≤ i then ceilDiv n (8 * gb) else i / (8 * gb)

theorem granulesDone_of_lt {gb n i : Nat} (hi : i < n) : granulesDone gb n i = granuleOf gb i := if_neg (Nat.not_le.mpr hi)

theorem granulesDone_of_le {gb n i : Nat} (hi : n ≤ i) : granulesDone gb n i = ceilDiv n (8 * gb) := if_pos hi

theorem granulesDone_zero {gb n : Nat} (hgb : 0 < gb) : granulesDone gb n 0 = 0 := by
  rcases Nat.eq_zero_or_pos n with rfl | hn
  · rw [granulesDone_of_le le_rfl, ceilDiv_eq_zero_iff (by omega)]
  · rw [granulesDone_of_lt hn, granuleOf, Nat.zero_div]

/-- The next `l` values, which lie in one granule, complete it or are not its last. -/
theorem granulesDone_add {gb l n i : Nat} (hgb : gb = 1 ∨ gb = 4) (hl : l = 1 ∨ l = 4 ∨ l = 8) (hil : i % l = 0)
    (hi : i < n) : granulesDone gb n (i + l) =
      if (i + l) % (8 * gb) = 0 ∨ n ≤ i + l then granuleOf gb i + 1 else granuleOf gb i := by
  unfold granulesDone granuleOf ceilDiv
  rcases hgb with rfl | rfl <;> rcases hl with rfl | rfl | rfl <;> split_ifs <;> omega

/-- Two scanners before the same value, with what is in memory. -/
structure ScannersAlike (j : Job) (l : Nat) (key : BitVec 16) (P : Nat → Prop) (x y : Scanner × Memory) : Prop where
  mfl : x.1.mfl = maskSets j.w l (some key)
  mfl' : y.1.mfl = maskSets j.w l (some key)
  bacc : x.1.vps.bacc = y.1.vps.bacc
  cnt : x.1.vps.cnt = y.1.vps.cnt
  mem : Alike j.src (j.w * j.n) P x.2 y.2

/-- A compare flavour that moves lanes only, and compares what the field of a lane determines. -/
structure Compare.ByField (cmp : Compare) : Prop where
  mfl : ∀ w l g sc, (cmp.move w l g sc).mfl = sc.mfl
  vps : ∀ w l g sc, (cmp.move w l g sc).vps = sc.vps
  left : ∀ w l g x key sc sc', LegalLane w l (g % 2) x → sc.mfl = maskSets w l key → sc'.mfl = maskSets w l key →
    rawField w l (g % 2) x (sc.vbu.raw.getD x 0) = rawField w l (g % 2) x (sc'.vbu.raw.getD x 0) →
    cmp.left (maskSet w l (g % 2) key) (cmp.move w l g sc).vbu x =
      cmp.left (maskSet w l (g % 2) key) (cmp.move w l g sc').vbu x

theorem compareRealigned_byField : compareRealigned.ByField where
  mfl _ _ _ _ := rfl
  vps _ _ _ _ := rfl
  left w _ _ _ _ _ _ h hm hm' hf := BitVec.eq_of_toNat_eq <|
    (r_realignLanes h (realignMul_extractsField w) hm).trans
      (hf.trans (r_realignLanes h (realignMul_extractsField w) hm').symm)

theorem compareInPlace_byField : compareInPlace.ByField where
  mfl _ _ _ _ := rfl
  vps _ _ _ _ := rfl
  left w l g x key _ _ h _ _ hf := BitVec.eq_of_toNat_eq <|
    (and_cleanIn_toNat h key _).trans ((congrArg (· <<< laneShift w l (g % 2) x) hf).trans (and_cleanIn_toNat h key _).symm)

/-- The compare of a lane-group, where the lanes of values below `N` compare alike. -/
theorem matchGroup_alike {j : Job} {l gb dst g : Nat} {cmp : Compare} {key : BitVec 16} {P : Nat → Prop}
    {x y : Scanner × Memory} (hgb : gb = 1 ∨ gb = 4) (hl : l = 4 ∨ l = 8) (hg : g < groups j.n l)
    (h : ScannersAlike j l key (fun a => P a ∨ Within dst (gb * granulesDone gb j.n (g * l)) a) x y)
    (hleft : ∀ c, c < l → g * l + c < j.n → cmp.left (maskSet j.w l (g % 2) (some key)) x.1.vbu c =
      cmp.left (maskSet j.w l (g % 2) (some key)) y.1.vbu c) :
    ScannersAlike j l key (fun a => P a ∨ Within dst (gb * granulesDone gb j.n ((g + 1) * l)) a)
      (matchGroup j l gb dst cmp g x) (matchGroup j l gb dst cmp g y) := by
  obtain ⟨hm, hm', hbacc, hcnt, hmem⟩ := h
  have hlt : g * l < j.n := (lt_ceilDiv_iff (by omega)).mp hg
  have hlast : g + 1 = groups j.n l ↔ j.n ≤ (g + 1) * l := by
    have := (lt_ceilDiv_iff (n := j.n) (l := l) (g := g + 1) (by omega)).not
    rw [groups] at hg ⊢
    omega
  have heq (c : Nat) (hc : c < l) (p : Lane) :
      (decide (g * l + c < j.n) && decide (cmp.left (maskSet j.w l (g % 2) (some key)) x.1.vbu c = p)) =
      (decide (g * l + c < j.n) && decide (cmp.left (maskSet j.w l (g % 2) (some key)) y.1.vbu c = p)) := by
    by_cases hn : g * l + c < j.n
    · rw [hleft c hc hn]
    · simp [hn]
  have hstep := granulesDone_add (n := j.n) hgb (.inr hl) (Nat.mul_mod_left g l) hlt
  rw [granulesDone_of_lt hlt] at hmem
  rw [Nat.succ_mul] at hlast ⊢
  unfold matchGroup
  simp only [hm, hm', forGroup_maskSets, hlast, bitsOf_congr fun c hc => heq c hc _, countOf_congr fun c hc => heq c hc _,
    hbacc, hcnt]
  split
  · next hc =>
    refine ⟨rfl, rfl, rfl, rfl, hmem.write _ _ (by rcases hgb with rfl | rfl <;> decide) fun a ha => ?_⟩
    rw [hstep, if_pos hc, Nat.mul_succ] at ha
    refine ha.elim (fun hp => .inl (.inl hp)) fun hin => ?_
    unfold Within at *
    omega
  · next hc =>
    refine ⟨rfl, rfl, rfl, rfl, hmem.mono fun a ha => ?_⟩
    rwa [hstep, if_neg hc] at ha

theorem rawField_loadUnaligned_congr {j : Job} {l g x : Nat} {key : Option (BitVec 16)} {sc sc' : Scanner} {m m' : Memory}
    (h : LegalLane j.w l (g % 2) x) (hx : g * l + x < j.n)
    (hs : ∀ b, b < j.w * j.n → streamBit m j.src b = streamBit m' j.src b)
    (hm : sc.mfl = maskSets j.w l key) (hm' : sc'.mfl = maskSets j.w l key) :
    rawField j.w l (g % 2) x ((loadGroup l (loadUnaligned j l) g m sc).vbu.raw.getD x 0) =
      rawField j.w l (g % 2) x ((loadGroup l (loadUnaligned j l) g m' sc').vbu.raw.getD x 0) := by
  rw [rawField_loadGroup h hm, rawField_loadGroup h hm', windowField_loadUnaligned h, windowField_loadUnaligned h,
    fieldAt_congr hs hx]

theorem scanGroup_alike {j : Job} {l gb dst g : Nat} {cmp : Compare} {key : BitVec 16} {P : Nat → Prop}
    {x y : Scanner × Memory} (hcmp : cmp.ByField) (hw1 : 1 ≤ j.w) (hw : j.w ≤ 16) (hgb : gb = 1 ∨ gb = 4)
    (hl : l = 4 ∨ l = 8) (hg : g < groups j.n l)
    (h : ScannersAlike j l key (fun a => P a ∨ Within dst (gb * granulesDone gb j.n (g * l)) a) x y) :
    ScannersAlike j l key (fun a => P a ∨ Within dst (gb * granulesDone gb j.n ((g + 1) * l)) a)
      (scanGroup j l gb dst cmp g x) (scanGroup j l gb dst cmp g y) := by
  have hmoved : ScannersAlike j l key (fun a => P a ∨ Within dst (gb * granulesDone gb j.n (g * l)) a)
      (cmp.move j.w l g (loadGroup l (loadUnaligned j l) g x.2 x.1), x.2)
      (cmp.move j.w l g (loadGroup l (loadUnaligned j l) g y.2 y.1), y.2) := by
    constructor <;> simp only [hcmp.mfl, hcmp.vps, loadGroup_mfl, loadGroup_vps]
    exacts [h.mfl, h.mfl', h.bacc, h.cnt, h.mem]
  have hmatch := matchGroup_alike (cmp := cmp) hgb hl hg hmoved fun c hc hn => by
    have hlane : LegalLane j.w l (g % 2) c := ⟨hw1, hw, hl, Nat.mod_lt g Nat.two_pos, hc⟩
    exact hcmp.left j.w l g c _ _ _ hlane h.mfl h.mfl' (rawField_loadUnaligned_congr hlane hn h.mem.stream h.mfl h.mfl')
  exact ⟨hmatch.mfl, hmatch.mfl', hmatch.bacc, hmatch.cnt, hmatch.mem⟩

/-- Two scans of a buffer with the same key: the same count and the same bitmap, whatever the scanners held. -/
theorem scanBuffer_alike {j : Job} {l gb dst : Nat} {cmp : Compare} {P : Nat → Prop} {m m' : Memory} (hcmp : cmp.ByField)
    (hw1 : 1 ≤ j.w) (hw : j.w ≤ 16) (hgb : gb = 1 ∨ gb = 4) (hl : l = 4 ∨ l = 8) (key : BitVec 16) (sc sc' : Scanner)
    (h : Alike j.src (j.w * j.n) P m m') :
    ScannersAlike j l key (fun a => P a ∨ Within dst (gb * ceilDiv j.n (8 * gb)) a) (scanBuffer j l gb cmp key dst (sc, m))
      (scanBuffer j l gb cmp key dst (sc', m')) := by
  have h0 : ScannersAlike j l key (fun a => P a ∨ Within dst (gb * granulesDone gb j.n (0 * l)) a)
      (startScanner j.w l key sc, m) (startScanner j.w l key sc', m') := by
    refine ⟨rfl, rfl, rfl, rfl, h.mono fun a ha => ha.resolve_right ?_⟩
    rw [Nat.zero_mul, granulesDone_zero (by omega), Nat.mul_zero]
    exact fun hin => absurd hin.2 (Nat.not_lt.mpr hin.1)
  have hend := upto_rel (fun g => ScannersAlike j l key fun a => P a ∨ Within dst (gb * granulesDone gb j.n (g * l)) a) h0
    (n := groups j.n l) fun g x y hg hxy => scanGroup_alike hcmp hw1 hw hgb hl hg hxy
  have hall : j.n ≤ groups j.n l * l := le_ceilDiv_mul j.n (by omega)
  rwa [granulesDone_of_le hall] at hend

theorem scanVectorBody_sameEnd {j : Job} {l gb : Nat} {cmp : Compare} {e f : Engine} (hcmp : cmp.ByField)
    (hw1 : 1 ≤ j.w) (hw : j.w ≤ 16) (hgb : gb = 1 ∨ gb = 4) (hl : l = 4 ∨ l = 8)
    (h : Alike j.src (j.w * j.n) (fun _ => False) e.mem f.mem) :
    SameEnd [⟨j.dst, gb * ceilDiv j.n (8 * gb)⟩] (scanVectorBody l gb cmp j e) (scanVectorBody l gb cmp j f) := by
  have hscan := scanBuffer_alike (dst := j.dst) hcmp hw1 hw hgb hl j.op.key e.scan f.scan h
  unfold scanVectorBody
  simp only
  rw [hscan.cnt]
  exact SameEnd.of_region _ (hscan.mem.mono fun a ha => .inr ha)

end Sys2Proof.Machine

/-! PROOFS. Two runs side by side of the commands on the scalar cursor (spec/42_scalar_codec.md R186, R187), and of the octets
of the vertical shared scan (spec/45_shared_scanner.md R264, R265). -/

namespace Sys2Proof.Machine

/-! ## DECODE.S and SCAN.S -/

/-- Memories that differ from `m₀` only inside the regions hold the same live bits of the source. -/
def StreamKept (ws : List Span) (j : Job) (m₀ : Memory) : Prop :=
  ∀ m, Frame ws m₀ m → ∀ b, b < j.w * j.n → streamBit m j.src b = streamBit m₀ j.src b

/-- Two runs of the cursor over streams with the same live bits: a relation that each pair of emissions of the same value
keeps, and that the cursor's own registers do not touch, holds at the end. -/
theorem cursor_rel {j : Job} {emit : Emit} {m₀ m₀' : Memory} {K K' : Engine → Prop} {e f : Engine}
    (R : Nat → Engine → Engine → Prop) (hw1 : 1 ≤ j.w) (hw : j.w ≤ 16) (hE : EmitsOver j emit m₀ K)
    (hE' : EmitsOver j emit m₀' K') (hk : K e) (hk' : K' f)
    (hs : ∀ b, b < j.w * j.n → streamBit m₀ j.src b = streamBit m₀' j.src b)
    (hR : ∀ i x y n n' c d, R i x y → R i { x with idx := n, sbc := c } { y with idx := n', sbc := d }) (h0 : R 0 e f)
    (hemit : ∀ i v x y, i < j.n → R i x y → R (i + 1) (emit i v x) (emit i v y)) :
    R j.n (cursor j emit e) (cursor j emit f) := by
  obtain ⟨-, c, hc⟩ := cursor_eq_loop hE hw1 hw hk
  obtain ⟨-, d, hd⟩ := cursor_eq_loop hE' hw1 hw hk'
  have hloop : R j.n (upto j.n (fieldPass (j.field m₀) emit) { e with idx := 0 })
      (upto j.n (fieldPass (j.field m₀') emit) { f with idx := 0 }) := by
    refine upto_rel R (hR 0 e f 0 0 e.sbc f.sbc h0) fun i x y hi hxy => ?_
    rw [fieldPass, fieldPass, show j.field m₀ i = j.field m₀' i from fieldAt_congr hs hi]
    exact hR _ _ _ (i + 1) (i + 1) _ _ (hemit i _ x y hi hxy)
  rw [hc, hd]
  exact hR _ _ _ _ _ c d hloop

theorem emitEntry_emitsOver {ws : List Span} {j : Job} {m₀ : Memory} (hc : Covers ws j.dst (4 * j.n))
    (hs : StreamKept ws j m₀) : EmitsOver j (emitEntry j) m₀ fun e => Frame ws m₀ e.mem where
  sbc _ _ _ _ := rfl
  idx _ _ _ := rfl
  source e h := hs e.mem h
  registers _ _ _ h := h
  emits i _ _ hi h := h.write (hc.part (by omega) (by omega)) _

theorem decodeScalarBody_sameEnd {ws : List Span} {j : Job} {e f : Engine} (hw1 : 1 ≤ j.w) (hw : j.w ≤ 16)
    (hc : Covers ws j.dst (4 * j.n)) (hs : StreamKept ws j e.mem) (hs' : StreamKept ws j f.mem)
    (h : Alike j.src (j.w * j.n) (fun _ => False) e.mem f.mem) :
    SameEnd [⟨j.dst, 4 * j.n⟩] (decodeScalarBody j e) (decodeScalarBody j f) := by
  refine SameEnd.of_region 0 (cursor_rel (fun i x y => Alike j.src (j.w * j.n) (Within j.dst (4 * i)) x.mem y.mem) hw1 hw
    (emitEntry_emitsOver hc hs) (emitEntry_emitsOver hc hs') (Frame.refl ws _) (Frame.refl ws _) h.stream
    (fun _ _ _ _ _ _ _ h => h) (h.mono fun a ha => absurd ha.2 (Nat.not_lt.mpr ha.1)) fun i v x y _ hxy => ?_)
  rw [Nat.mul_succ]
  exact hxy.append rfl _ (by decide)

theorem emitMatch_sbc (j : Job) (i : Nat) (x : BitVec 16) (e : Engine) (c : Sbc) :
    emitMatch j i x { e with sbc := c } = { emitMatch j i x e with sbc := c } := by
  unfold emitMatch
  simp only
  split <;> rfl

theorem emitMatch_emitsOver {ws : List Span} {j : Job} {m₀ : Memory} (hc : Covers ws j.dst (ceilDiv j.n 8))
    (hs : StreamKept ws j m₀) : EmitsOver j (emitMatch j) m₀ fun e => Frame ws m₀ e.mem where
  sbc := emitMatch_sbc j
  idx := emitMatch_idx j
  source e h := hs e.mem h
  registers _ _ _ h := h
  emits _ x _ hi h := emitMatch_frame x h hi hc

/-- Two scalar scans before value `i`. -/
structure MatchersAlike (j : Job) (i : Nat) (e f : Engine) : Prop where
  bacc : e.scan.vps.bacc = f.scan.vps.bacc
  cnt : e.scan.vps.cnt = f.scan.vps.cnt
  mem : Alike j.src (j.w * j.n) (Within j.dst (granulesDone 1 j.n i)) e.mem f.mem

theorem emitMatch_alike {j : Job} {i : Nat} {e f : Engine} (x : BitVec 16) (hi : i < j.n) (h : MatchersAlike j i e f) :
    MatchersAlike j (i + 1) (emitMatch j i x e) (emitMatch j i x f) := by
  obtain ⟨hb, hn, hm⟩ := h
  have hstep := granulesDone_add (gb := 1) (l := 1) (n := j.n) (.inl rfl) (.inl rfl) (Nat.mod_one i) hi
  rw [granulesDone_of_lt hi] at hm
  simp only [granuleOf, Nat.mul_one] at hstep hm
  unfold emitMatch
  simp only [hb, hn]
  split
  · next hc =>
    rw [if_pos (by omega)] at hstep
    exact ⟨rfl, rfl, hstep ▸ hm.append rfl _ (by decide)⟩
  · next hc =>
    rw [if_neg (by omega)] at hstep
    exact ⟨rfl, rfl, hstep ▸ hm⟩

/-- Two runs of the cursor of SCAN.S. -/
theorem cursor_matchersAlike {ws : List Span} {j : Job} {e f : Engine} (hw1 : 1 ≤ j.w) (hw : j.w ≤ 16)
    (hc : Covers ws j.dst (ceilDiv j.n 8)) (hs : StreamKept ws j e.mem) (hs' : StreamKept ws j f.mem)
    (h : MatchersAlike j 0 e f) : MatchersAlike j j.n (cursor j (emitMatch j) e) (cursor j (emitMatch j) f) :=
  cursor_rel (MatchersAlike j) hw1 hw (emitMatch_emitsOver hc hs) (emitMatch_emitsOver hc hs') (Frame.refl ws _)
    (Frame.refl ws _) h.mem.stream (fun _ _ _ _ _ _ _ h => ⟨h.bacc, h.cnt, h.mem⟩) h fun _ v _ _ hi => emitMatch_alike v hi

theorem scanScalarBody_sameEnd {ws : List Span} {j : Job} {e f : Engine} (hw1 : 1 ≤ j.w) (hw : j.w ≤ 16)
    (hc : Covers ws j.dst (ceilDiv j.n 8)) (hs : StreamKept ws j e.mem) (hs' : StreamKept ws j f.mem)
    (h : Alike j.src (j.w * j.n) (fun _ => False) e.mem f.mem) :
    SameEnd [⟨j.dst, ceilDiv j.n 8⟩] (scanScalarBody j e) (scanScalarBody j f) := by
  have h0 : Alike j.src (j.w * j.n) (Within j.dst (granulesDone 1 j.n 0)) e.mem f.mem := h.mono fun a ha => by
    rw [granulesDone_zero Nat.one_pos] at ha
    exact absurd ha.2 (Nat.not_lt.mpr ha.1)
  obtain ⟨-, hcnt, hmem⟩ := cursor_matchersAlike hw1 hw hc hs hs'
    (e := { e with scan := { e.scan with vps := { e.scan.vps with bacc := 0, cnt := 0 } } })
    (f := { f with scan := { f.scan with vps := { f.scan.vps with bacc := 0, cnt := 0 } } }) ⟨rfl, rfl, h0⟩
  rw [granulesDone_of_le le_rfl] at hmem
  simp only [scanScalarBody, hcnt]
  exact SameEnd.of_region _ hmem

/-! ## SHSCAN, vertical -/

theorem getD_spliceLanes {xs ys : List Lane} {pos m : Nat} (hpos : pos ≤ xs.length) (hm : m < pos + ys.length) :
    (spliceLanes xs ys pos).getD m 0 = if m < pos then xs.getD m 0 else ys.getD (m - pos) 0 := by
  simp only [spliceLanes, List.getD_eq_getElem?_getD, List.append_assoc]
  split
  · next h => rw [List.getElem?_append_left (by simp; omega), List.getElem?_take_of_lt h]
  · next h =>
    rw [List.getElem?_append_right (by simp; omega), List.getElem?_append_left (by simp; omega)]
    simp [Nat.min_eq_left hpos]

theorem length_spliceLanes {xs ys : List Lane} {pos : Nat} (h : pos + ys.length ≤ xs.length) :
    (spliceLanes xs ys pos).length = xs.length := by
  simp only [spliceLanes, List.length_append, List.length_take, List.length_drop]
  omega

/-- Two vertical scans: the keys, the masks, and which addresses hold the same. -/
structure OctetsAlike (j : Job) (l : Nat) (P : Nat → Prop) (e f : Engine) : Prop where
  mfl : e.scan.mfl = maskSets j.w l none
  mfl' : f.scan.mfl = maskSets j.w l none
  keys : ∀ x, x < j.k → e.ssm.keyAt x = f.ssm.keyAt x
  len : e.ssm.octet.length = 8
  len' : f.ssm.octet.length = 8
  mem : Alike j.src (j.w * j.n) P e.mem f.mem

/-- The first `d` lanes of octet `t` are the same, as far as they stand for values. -/
def LanesAlike (j : Job) (t d : Nat) (e f : Engine) : Prop :=
  ∀ m, m < d → 8 * t + m < j.n → e.ssm.octet.getD m 0 = f.ssm.octet.getD m 0

theorem length_r_realignGroup (l : Nat) (load : LoadWindow) (realign : Realign) (g : Nat) (m : Memory) (sc : Scanner) :
    (realignGroup l load realign g m sc).vbu.r.length = l := length_lanesOf _ _

theorem octetGroup_alike {j : Job} {l t h : Nat} {P : Nat → Prop} {e f : Engine} (hw1 : 1 ≤ j.w) (hw : j.w ≤ 16)
    (hl : l = 4 ∨ l = 8) (hh : h < 8 / l) (ho : OctetsAlike j l P e f) (hd : LanesAlike j t (h * l) e f) :
    OctetsAlike j l P (octetGroup j l t h e) (octetGroup j l t h f) ∧
      LanesAlike j t ((h + 1) * l) (octetGroup j l t h e) (octetGroup j l t h f) := by
  obtain ⟨hm, hm', hk, hlen, hlen', hmem⟩ := ho
  have hpos : (h + 1) * l ≤ 8 := (Nat.mul_le_mul_right l hh).trans (Nat.div_mul_le_self 8 l)
  have hg : (t * (8 / l) + h) * l = 8 * t + h * l := by rcases hl with rfl | rfl <;> omega
  rw [Nat.succ_mul] at hpos ⊢
  unfold octetGroup
  simp only
  split
  · refine ⟨⟨hm, hm', hk, ?_, ?_, hmem⟩, fun m hmd hn => ?_⟩
    · rw [length_spliceLanes (by rw [length_r_realignGroup]; omega), hlen]
    · rw [length_spliceLanes (by rw [length_r_realignGroup]; omega), hlen']
    · simp only
      rw [getD_spliceLanes (by omega) (by rw [length_r_realignGroup]; omega),
        getD_spliceLanes (by omega) (by rw [length_r_realignGroup]; omega)]
      split
      · next hlt => exact hd m hlt hn
      · next hge =>
        exact realignGroup_alike (loadUnaligned_alike j l) (realignMul_extractsField j.w)
          ⟨hw1, hw, hl, Nat.mod_lt _ Nat.two_pos, by omega⟩ (by omega) hmem.stream trivial hm hm'
  · next hge => exact ⟨⟨hm, hm', hk, hlen, hlen', hmem⟩, fun m hmd hn => hd m (by omega) hn⟩

theorem octetKey_alike {j : Job} {l t x : Nat} {il : Bool} {P Q : Nat → Prop} {e f : Engine} (hx : x < j.k)
    (ho : OctetsAlike j l P e f) (hd : LanesAlike j t 8 e f) (hQ : ∀ a, Q a → P a ∨ a = octetAddr j il t x) :
    OctetsAlike j l Q (octetKey j il t x e) (octetKey j il t x f) ∧
      LanesAlike j t 8 (octetKey j il t x e) (octetKey j il t x f) := by
  obtain ⟨hm, hm', hk, hlen, hlen', hmem⟩ := ho
  have hbyte : bitsOf (fun m => decide (8 * t + m < j.n) && decide (e.ssm.octet.getD m 0 = (e.ssm.keyAt x).setWidth 32)) 8 =
      bitsOf (fun m => decide (8 * t + m < j.n) && decide (f.ssm.octet.getD m 0 = (f.ssm.keyAt x).setWidth 32)) 8 :=
    bitsOf_congr fun m hm8 => by
      by_cases hn : 8 * t + m < j.n
      · rw [hd m hm8 hn, hk x hx]
      · simp [hn]
  refine ⟨⟨hm, hm', hk, hlen, hlen', ?_⟩, hd⟩
  simp only [octetKey, hbyte]
  exact hmem.write _ _ (by decide) fun a ha => (hQ a ha).imp id fun he => by unfold Within; omega

/-- The addresses of the bytes of the first `t` octets. -/
def OctetsWritten (j : Job) (il : Bool) (t a : Nat) : Prop := ∃ t' x, t' < t ∧ x < j.k ∧ a = octetAddr j il t' x

theorem octetPass_alike {j : Job} {l t : Nat} {il : Bool} {e f : Engine} (hw1 : 1 ≤ j.w) (hw : j.w ≤ 16)
    (hl : l = 4 ∨ l = 8) (h : OctetsAlike j l (OctetsWritten j il t) e f) :
    OctetsAlike j l (OctetsWritten j il (t + 1)) (octetPass j l il t e) (octetPass j l il t f) := by
  have hlanes := upto_rel (fun h e f => OctetsAlike j l (OctetsWritten j il t) e f ∧ LanesAlike j t (h * l) e f)
    (n := 8 / l) ⟨h, fun m hm => absurd hm (by omega)⟩ fun i x y hi hxy => octetGroup_alike hw1 hw hl hi hxy.1 hxy.2
  rw [show 8 / l * l = 8 by rcases hl with rfl | rfl <;> rfl] at hlanes
  have hkeys := upto_rel (fun k e f => OctetsAlike j l (fun a => OctetsWritten j il t a ∨ ∃ x, x < k ∧ a = octetAddr j il t x)
      e f ∧ LanesAlike j t 8 e f) (n := j.k) (f := octetKey j il t) (g := octetKey j il t)
    ⟨⟨hlanes.1.mfl, hlanes.1.mfl', hlanes.1.keys, hlanes.1.len, hlanes.1.len', hlanes.1.mem.mono fun a ha =>
      ha.resolve_right fun ⟨x, hx, _⟩ => absurd hx (Nat.not_lt_zero x)⟩, hlanes.2⟩
    fun k x y hk hxy => octetKey_alike hk hxy.1 hxy.2 fun a ha => by
      rcases ha with ha | ⟨x, hx, rfl⟩
      · exact .inl (.inl ha)
      · rcases Nat.lt_succ_iff_lt_or_eq.mp hx with hx | rfl
        · exact .inl (.inr ⟨x, hx, rfl⟩)
        · exact .inr rfl
  obtain ⟨hm, hm', hk, hlen, hlen', hmem⟩ := hkeys.1
  refine ⟨hm, hm', hk, hlen, hlen', hmem.mono ?_⟩
  rintro a ⟨t', x, ht, hx, rfl⟩
  rcases Nat.lt_succ_iff_lt_or_eq.mp ht with ht | rfl
  · exact .inl ⟨t', x, ht, hx, rfl⟩
  · exact .inr ⟨x, hx, rfl⟩

/-- The first keys of the store are those of the key table. -/
theorem loadKeys_alike {j : Job} {e f : Engine} (h : ∀ x, x < j.k → keyAt e.mem j.keys x = keyAt f.mem j.keys x) {x : Nat}
    (hx : x < j.k) : (loadKeys j e).ssm.keyAt x = (loadKeys j f).ssm.keyAt x := by
  rw [keyAt_loadKeys j e hx, keyAt_loadKeys j f hx]
  exact congrArg _ (h x hx)

/-- Two vertical scans through all octets. -/
theorem octets_alike {j : Job} {l : Nat} {il : Bool} {e f : Engine} (hw1 : 1 ≤ j.w) (hw : j.w ≤ 16)
    (hl : l = 4 ∨ l = 8) (h : OctetsAlike j l (OctetsWritten j il 0) e f) :
    OctetsAlike j l (OctetsWritten j il (ceilDiv j.n 8)) (upto (ceilDiv j.n 8) (octetPass j l il) e)
      (upto (ceilDiv j.n 8) (octetPass j l il) f) :=
  upto_rel (fun t => OctetsAlike j l (OctetsWritten j il t)) h fun _ _ _ _ => octetPass_alike hw1 hw hl

theorem verticalBody_alike {j : Job} {l : Nat} {il : Bool} {e f : Engine} (hw1 : 1 ≤ j.w) (hw : j.w ≤ 16)
    (hl : l = 4 ∨ l = 8) (hk0 : j.k ≠ 0) (hk : ∀ x, x < j.k → keyAt e.mem j.keys x = keyAt f.mem j.keys x)
    (h : Alike j.src (j.w * j.n) (fun _ => False) e.mem f.mem) :
    ∃ e' f', verticalBody l il j e = .done e' 0 ∧ verticalBody l il j f = .done f' 0 ∧
      Alike j.src (j.w * j.n) (OctetsWritten j il (ceilDiv j.n 8)) e'.mem f'.mem := by
  have h0 : Alike j.src (j.w * j.n) (OctetsWritten j il 0) e.mem f.mem :=
    h.mono fun a ⟨t, _, ht, _⟩ => absurd ht (Nat.not_lt_zero t)
  unfold verticalBody
  simp only [hk0, if_false]
  refine ⟨_, _, rfl, rfl, OctetsAlike.mem (l := l) (octets_alike hw1 hw hl ⟨rfl, rfl, fun x hx => ?_, rfl, rfl, h0⟩)⟩
  exact loadKeys_alike hk hx

end Sys2Proof.Machine

/-! PROOFS. Two runs of a shared scan side by side: the bitmaps of the vertical, horizontal and threaded families
(spec/45_shared_scanner.md). -/

namespace Sys2Proof.Machine

theorem verticalBody_separate_sameEnd {j : Job} {l : Nat} {e f : Engine} (hw1 : 1 ≤ j.w) (hw : j.w ≤ 16)
    (hl : l = 4 ∨ l = 8) (hk0 : j.k ≠ 0) (hk : ∀ x, x < j.k → keyAt e.mem j.keys x = keyAt f.mem j.keys x)
    (h : Alike j.src (j.w * j.n) (fun _ => False) e.mem f.mem) :
    SameEnd (bitmapSpans j.op (ceilDiv j.n 8)) (verticalBody l false j e) (verticalBody l false j f) := by
  obtain ⟨e', f', he, hf, hmem⟩ := verticalBody_alike (il := false) hw1 hw hl hk0 hk h
  rw [he, hf]
  refine SameEnd.of_bitmaps 0 (hmem.mono ?_)
  rintro a ⟨x, hx, hlo, hhi⟩
  refine ⟨a - bitmapBase j x, x, by omega, hx, ?_⟩
  rw [octetAddr, if_neg Bool.false_ne_true]
  omega

theorem verticalBody_interleaved_sameEnd {j : Job} {l : Nat} {e f : Engine} (hw1 : 1 ≤ j.w) (hw : j.w ≤ 16)
    (hl : l = 4 ∨ l = 8) (hk0 : j.k ≠ 0) (hk : ∀ x, x < j.k → keyAt e.mem j.keys x = keyAt f.mem j.keys x)
    (h : Alike j.src (j.w * j.n) (fun _ => False) e.mem f.mem) :
    SameEnd [⟨j.dst, j.k * ceilDiv j.n 8⟩] (verticalBody l true j e) (verticalBody l true j f) := by
  obtain ⟨e', f', he, hf, hmem⟩ := verticalBody_alike (il := true) hw1 hw hl hk0 hk h
  rw [he, hf]
  refine SameEnd.of_region 0 (hmem.mono ?_)
  rintro a ⟨hlo, hhi⟩
  have hpos := Nat.pos_of_ne_zero hk0
  have hdiv := Nat.div_add_mod' (a - j.dst) j.k
  refine ⟨(a - j.dst) / j.k, (a - j.dst) % j.k, Nat.div_lt_of_lt_mul (by omega), Nat.mod_lt _ hpos, ?_⟩
  rw [octetAddr, if_pos rfl]
  omega

/-! ## SHSCAN, horizontal -/

/-- Two horizontal scans with the same keys and accumulators, `nk` keys in the group, and what memory holds the same. -/
structure GroupsAlike (j : Job) (nk : Nat) (P : Nat → Prop) (e f : Engine) : Prop where
  ssm : e.ssm = f.ssm
  len : e.ssm.bcast.length = nk
  mem : Alike j.src (j.w * j.n) P e.mem f.mem

/-- The flush of the granules of value `i` for the first keys of the group. -/
theorem flushLanes_alike {j : Job} {first i nk : Nat} {P : Nat → Prop} {e f : Engine} (h : GroupsAlike j nk P e f) (d : Nat) :
    GroupsAlike j nk (fun a => P a ∨ ∃ c, c < d ∧ Within (bitmapBase j (first + c) + 4 * (i / 32)) 4 a)
      (upto d (flushLane j first i) e) (upto d (flushLane j first i) f) := by
  refine upto_rel (fun d e f => GroupsAlike j nk (fun a => P a ∨ ∃ c, c < d ∧
    Within (bitmapBase j (first + c) + 4 * (i / 32)) 4 a) e f) ⟨h.ssm, h.len, h.mem.mono fun a ha =>
      ha.resolve_right fun ⟨c, hc, _⟩ => absurd hc (Nat.not_lt_zero c)⟩ fun c x y _ hxy => ?_
  obtain ⟨hs, hlen, hmem⟩ := hxy
  simp only [flushLane, ← hs]
  refine ⟨rfl, hlen, hmem.write _ _ (by decide) fun a ha => ?_⟩
  rcases ha with ha | ⟨c', hc', hin⟩
  · exact .inl (.inl ha)
  · rcases Nat.lt_succ_iff_lt_or_eq.mp hc' with hc' | rfl
    · exact .inl (.inr ⟨c', hc', hin⟩)
    · exact .inr hin

/-- The addresses of the granules written for the first `nk` keys of a group before value `i`. -/
def GroupWritten (j : Job) (first nk i a : Nat) : Prop :=
  ∃ c, c < nk ∧ Within (bitmapBase j (first + c)) (4 * granulesDone 4 j.n i) a

theorem emitKeys_alike {j : Job} {first i nk : Nat} {P : Nat → Prop} {e f : Engine} (v : BitVec 16) (hi : i < j.n)
    (h : GroupsAlike j nk (fun a => P a ∨ GroupWritten j first nk i a) e f) :
    GroupsAlike j nk (fun a => P a ∨ GroupWritten j first nk (i + 1) a) (emitKeys j first i v e)
      (emitKeys j first i v f) := by
  obtain ⟨hs, hlen, hmem⟩ := h
  have hstep := granulesDone_add (gb := 4) (l := 1) (n := j.n) (.inr rfl) (.inl rfl) (Nat.mod_one i) hi
  have hacc : GroupsAlike j nk (fun a => P a ∨ GroupWritten j first nk i a) { e with ssm := accumulate i v e.ssm }
      { f with ssm := accumulate i v f.ssm } := ⟨congrArg (accumulate i v) hs, hlen, hmem⟩
  have hlt := granulesDone_of_lt (gb := 4) hi
  simp only [granuleOf, show 8 * 4 = 32 from rfl] at hstep hlt
  unfold emitKeys
  simp only
  rw [show (accumulate i v f.ssm).bcast.length = nk from hs ▸ hlen, show (accumulate i v e.ssm).bcast.length = nk from hlen]
  split
  · next hc =>
    rw [if_pos (by omega)] at hstep
    obtain ⟨hs', hlen', hmem'⟩ := flushLanes_alike (first := first) (i := i) hacc nk
    refine ⟨hs', hlen', hmem'.mono fun a ha => ?_⟩
    rcases ha with ha | ⟨c, hc, hin⟩
    · exact .inl (.inl ha)
    · rw [hstep] at hin
      by_cases hold : a < bitmapBase j (first + c) + 4 * (i / 32)
      · exact .inl (.inr ⟨c, hc, hin.1, by rwa [hlt]⟩)
      · exact .inr ⟨c, hc, by have := hin.2; omega, by have := hin.2; omega⟩
  · next hc =>
    rw [if_neg (by omega)] at hstep
    have hsame : granulesDone 4 j.n (i + 1) = granulesDone 4 j.n i := hstep.trans hlt.symm
    exact ⟨hacc.ssm, hlen, hmem.mono fun a ha => by rwa [GroupWritten, hsame] at ha⟩

theorem emitKeys_sbc (j : Job) (first i : Nat) (x : BitVec 16) (e : Engine) (c : Sbc) :
    emitKeys j first i x { e with sbc := c } = { emitKeys j first i x e with sbc := c } := by
  unfold emitKeys
  simp only
  split
  · exact upto_rel (f := flushLane j first i) (g := flushLane j first i) (a := { e with ssm := accumulate i x e.ssm, sbc := c })
      (b := { e with ssm := accumulate i x e.ssm }) (fun _ (y z : Engine) => y = { z with sbc := c }) rfl
      fun _ y z _ hyz => by rw [hyz]; rfl
  · rfl

theorem emitKeys_emitsOver {ws : List Span} {j : Job} {m₀ : Memory} {first nk : Nat}
    (hc : ∀ c, c < nk → Covers ws (bitmapBase j (first + c)) (4 * ceilDiv j.n 32)) (hs : StreamKept ws j m₀) :
    EmitsOver j (emitKeys j first) m₀ fun e => Frame ws m₀ e.mem ∧ e.ssm.bcast.length = nk where
  sbc := emitKeys_sbc j first
  idx := emitKeys_idx j first
  source e h := hs e.mem h.1
  registers _ _ _ h := h
  emits _ x _ hi h := emitKeys_frame x h hi hc

/-- The engine at the start of a key group: its keys broadcast, the accumulators cleared (spec/45_shared_scanner.md R270). -/
def groupStart (j : Job) (l jg : Nat) (e : Engine) : Engine :=
  let keys := (List.range (min l (j.k - jg * l))).map fun c => e.ssm.keyAt (jg * l + c)
  { e with ssm := { e.ssm with jg := jg, bcast := keys, accs := List.replicate l 0 } }

theorem keyGroup_eq_cursor (j : Job) (l jg : Nat) (e : Engine) :
    keyGroup j l jg e = cursor j (emitKeys j (jg * l)) (groupStart j l jg e) := rfl

theorem length_groupStart_bcast (j : Job) (l jg : Nat) (e : Engine) :
    (groupStart j l jg e).ssm.bcast.length = min l (j.k - jg * l) := by simp [groupStart]

/-- The addresses of the whole bitmaps of the first `k` keys. -/
def BitmapsWritten (j : Job) (len k a : Nat) : Prop := ∃ x, x < min k j.k ∧ Within (bitmapBase j x) len a

/-- Two horizontal scans before a key group: what `GroupsAlike` says, and that each has kept its source. -/
structure HorizontalsAlike (ws : List Span) (j : Job) (m₀ m₀' : Memory) (k : Nat) (e f : Engine) : Prop where
  ssm : e.ssm = f.ssm
  mem : Alike j.src (j.w * j.n) (BitmapsWritten j (4 * ceilDiv j.n 32) k) e.mem f.mem
  frame : Frame ws m₀ e.mem
  frame' : Frame ws m₀' f.mem

theorem keyGroup_alike {ws : List Span} {j : Job} {m₀ m₀' : Memory} {l jg : Nat} {e f : Engine} (hw1 : 1 ≤ j.w)
    (hw : j.w ≤ 16) (hc : ∀ x, x < j.k → Covers ws (bitmapBase j x) (4 * ceilDiv j.n 32)) (hs : StreamKept ws j m₀)
    (hs' : StreamKept ws j m₀') (hstream : ∀ b, b < j.w * j.n → streamBit m₀ j.src b = streamBit m₀' j.src b)
    (h : HorizontalsAlike ws j m₀ m₀' (jg * l) e f) :
    HorizontalsAlike ws j m₀ m₀' ((jg + 1) * l) (keyGroup j l jg e) (keyGroup j l jg f) := by
  obtain ⟨hssm, hmem, hf, hf'⟩ := h
  have hcov (c : Nat) (hcn : c < min l (j.k - jg * l)) : Covers ws (bitmapBase j (jg * l + c)) (4 * ceilDiv j.n 32) :=
    hc _ (by omega)
  have hstart : GroupsAlike j (min l (j.k - jg * l)) (fun a => BitmapsWritten j (4 * ceilDiv j.n 32) (jg * l) a ∨
      GroupWritten j (jg * l) (min l (j.k - jg * l)) 0 a) (groupStart j l jg e) (groupStart j l jg f) := by
    refine ⟨by simp only [groupStart, hssm], length_groupStart_bcast j l jg e, hmem.mono fun a ha => ha.resolve_right ?_⟩
    rintro ⟨c, -, hin⟩
    rw [granulesDone_zero (by decide)] at hin
    exact absurd hin.2 (Nat.not_lt.mpr hin.1)
  have hend := cursor_rel (e := groupStart j l jg e) (f := groupStart j l jg f) (fun i => GroupsAlike j (min l (j.k - jg * l)) fun a =>
      BitmapsWritten j (4 * ceilDiv j.n 32) (jg * l) a ∨ GroupWritten j (jg * l) (min l (j.k - jg * l)) i a) hw1 hw
    (emitKeys_emitsOver hcov hs) (emitKeys_emitsOver hcov hs') ⟨hf, length_groupStart_bcast j l jg e⟩
    ⟨hf', length_groupStart_bcast j l jg f⟩ hstream
    (fun _ _ _ _ _ _ _ h => ⟨h.ssm, h.len, h.mem⟩) hstart fun _ v _ _ hi => emitKeys_alike v hi
  rw [← keyGroup_eq_cursor, ← keyGroup_eq_cursor] at hend
  refine ⟨hend.ssm, hend.mem.mono ?_, keyGroup_frame hf hc, keyGroup_frame hf' hc⟩
  rintro a ⟨x, hx, hin⟩
  rw [Nat.succ_mul] at hx
  by_cases hold : x < jg * l
  · exact .inl ⟨x, by omega, hin⟩
  · refine .inr ⟨x - jg * l, by omega, ?_⟩
    rwa [granulesDone_of_le le_rfl, show jg * l + (x - jg * l) = x by omega]

/-- With the same key table the key stores stay the same. -/
theorem loadKeys_ssm {j : Job} {e f : Engine} (hssm : e.ssm = f.ssm)
    (h : ∀ x, x < j.k → keyAt e.mem j.keys x = keyAt f.mem j.keys x) : (loadKeys j e).ssm = (loadKeys j f).ssm := by
  have hkeys : ((List.range j.k).map fun x => BitVec.ofNat 16 (memRead e.mem (j.keys + 2 * x) 2)) =
      (List.range j.k).map fun x => BitVec.ofNat 16 (memRead f.mem (j.keys + 2 * x) 2) :=
    List.map_congr_left fun x hx => congrArg _ (h x (List.mem_range.mp hx))
  simp only [loadKeys, hkeys, hssm]

theorem horizontalBody_sameEnd {ws : List Span} {j : Job} {l : Nat} {e f : Engine} (hw1 : 1 ≤ j.w) (hw : j.w ≤ 16)
    (hl : 0 < l) (hc : ∀ x, x < j.k → Covers ws (bitmapBase j x) (4 * ceilDiv j.n 32)) (hs : StreamKept ws j e.mem)
    (hs' : StreamKept ws j f.mem) (hssm : e.ssm = f.ssm)
    (hk : ∀ x, x < j.k → keyAt e.mem j.keys x = keyAt f.mem j.keys x)
    (h : Alike j.src (j.w * j.n) (fun _ => False) e.mem f.mem) :
    SameEnd (bitmapSpans j.op (4 * ceilDiv j.n 32)) (horizontalBody l j e) (horizontalBody l j f) := by
  have h0 : HorizontalsAlike ws j e.mem f.mem (0 * l) (loadKeys j { e with idx := 0 }) (loadKeys j { f with idx := 0 }) := by
    refine ⟨loadKeys_ssm (e := { e with idx := 0 }) (f := { f with idx := 0 }) hssm hk, h.mono ?_, Frame.refl ws _,
      Frame.refl ws _⟩
    rintro a ⟨x, hx, -⟩
    omega
  have hend := upto_rel (fun jg => HorizontalsAlike ws j e.mem f.mem (jg * l)) h0 (n := ceilDiv j.k l)
    fun jg x y _ => keyGroup_alike hw1 hw hc hs hs' h.stream
  have hall := le_ceilDiv_mul j.k hl
  exact SameEnd.of_bitmaps 0 (hend.mem.mono fun a ⟨x, hx, hin⟩ => ⟨x, by omega, hin⟩)

/-! ## SHSCAN.T -/

/-- Two threaded scans with the same key store, and the bitmaps of the first `k` keys the same. -/
structure WorkersAlike (j : Job) (k : Nat) (e f : Engine) : Prop where
  ssm : e.ssm = f.ssm
  mem : Alike j.src (j.w * j.n) (BitmapsWritten j (ceilDiv j.n 8) k) e.mem f.mem

theorem workerKey_alike {j : Job} {x : Nat} {e f : Engine} (w : Nat) (hw1 : 1 ≤ j.w) (hw : j.w ≤ 16)
    (h : WorkersAlike j x e f) : WorkersAlike j (x + 1) (workerKey j w x e) (workerKey j w x f) := by
  obtain ⟨hssm, hmem⟩ := h
  have hscan := scanBuffer_alike (gb := 1) (l := 4) (dst := bitmapBase j x) compareRealigned_byField hw1 hw (.inl rfl) (.inl rfl)
    (e.ssm.keyAt x) (e.workers.getD w Scanner.empty) (f.workers.getD w Scanner.empty) hmem
  refine ⟨hssm, ?_⟩
  simp only [workerKey, ← hssm]
  refine hscan.mem.mono ?_
  rintro a ⟨x', hx', hin⟩
  by_cases hold : x' < x
  · exact .inl ⟨x', by omega, hin⟩
  · obtain rfl : x' = x := by omega
    exact .inr (by rwa [Nat.one_mul])

theorem workerRun_alike {j : Job} {w : Nat} {e f : Engine} (hw1 : 1 ≤ j.w) (hw : j.w ≤ 16)
    (h : WorkersAlike j (w * sliceLen j) e f) :
    WorkersAlike j ((w + 1) * sliceLen j) (workerRun j w e) (workerRun j w f) := by
  have hend := upto_rel (fun d => WorkersAlike j (w * sliceLen j + d)) h
    (n := min ((w + 1) * sliceLen j) j.k - w * sliceLen j) fun d x y _ => workerKey_alike w hw1 hw
  refine ⟨hend.ssm, hend.mem.mono fun a ⟨x, hx, hin⟩ => ⟨x, ?_, hin⟩⟩
  rw [Nat.succ_mul] at hx ⊢
  omega

theorem threadedBody_sameEnd {j : Job} {e f : Engine} (hw1 : 1 ≤ j.w) (hw : j.w ≤ 16) (hnw : 0 < j.nwork)
    (hssm : e.ssm = f.ssm) (hk : ∀ x, x < j.k → keyAt e.mem j.keys x = keyAt f.mem j.keys x)
    (h : Alike j.src (j.w * j.n) (fun _ => False) e.mem f.mem) :
    SameEnd (bitmapSpans j.op (ceilDiv j.n 8)) (threadedBody j e) (threadedBody j f) := by
  have h0 : WorkersAlike j (0 * sliceLen j) (loadKeys j { e with idx := 0, workers := List.replicate j.nwork Scanner.empty })
      (loadKeys j { f with idx := 0, workers := List.replicate j.nwork Scanner.empty }) := by
    refine ⟨loadKeys_ssm (e := { e with idx := 0, workers := _ }) (f := { f with idx := 0, workers := _ }) hssm hk, h.mono ?_⟩
    rintro a ⟨x, hx, -⟩
    omega
  have hend := upto_rel (fun w => WorkersAlike j (w * sliceLen j)) h0 (n := j.nwork) fun w _ _ _ => workerRun_alike hw1 hw
  have hall : j.k ≤ sliceLen j * j.nwork := le_ceilDiv_mul j.k hnw
  exact SameEnd.of_bitmaps 0 (hend.mem.mono fun a ⟨x, hx, hin⟩ => ⟨x, by rw [Nat.mul_comm]; omega, hin⟩)

end Sys2Proof.Machine

/-! PROOFS. The results of a command depend on its inputs only: the read footprint (spec/20_memory.md R79), and of the stream
the bits below `W·N` (R77). -/

namespace Sys2Proof.Machine

/-! ## The inputs of a command -/

/-- The commands that read the compressed stream. -/
def ReadsStream (i : Instr) (j : Job) : Prop := i.op = .decode ∨ i.op = .scan ∨ i.op = .shscan ∧ j.k ≠ 0

/-- Two memories hold the same inputs of a command: the column of PACK, the live bits of the stream, the key table. -/
structure SameInputs (i : Instr) (j : Job) (m m' : Memory) : Prop where
  column : i.op = .pack → ∀ a, Within j.src (2 * j.n) a → byteAt m a = byteAt m' a
  stream : ReadsStream i j → ∀ b, b < j.w * j.n → streamBit m j.src b = streamBit m' j.src b
  keys : i.op = .shscan → ∀ x, x < j.k → keyAt m j.keys x = keyAt m' j.keys x

theorem liveBytes_le_byteOff (w : Nat) {n l g : Nat} (h : n ≤ g * l) : liveBytes w n ≤ byteOff w l g + 1 := by
  have hle : w * n ≤ w * (g * l) := Nat.mul_le_mul_left w h
  rw [Nat.mul_comm w (g * l)] at hle
  unfold liveBytes byteOff ceilDiv
  omega

/-- The windows, and the block pairs, reach to the end of the live bytes. -/
theorem liveBytes_le_regions (o : Latches) (hw : o.w.toNat ≤ 16) {l : Nat} (hl : l = 4 ∨ l = 8) :
    liveBytes o.w.toNat o.n.toNat ≤ (windowSpan o l).len ∧ liveBytes o.w.toNat o.n.toNat ≤ (blockSpan o).len := by
  have last (l : Nat) (hl : l = 4 ∨ l = 8) (hn : o.n.toNat ≠ 0) :
      liveBytes o.w.toNat o.n.toNat ≤ byteOff o.w.toNat l (ceilDiv o.n.toNat l - 1) + 2 * l + 1 := by
    have hg := (ceilDiv_eq_zero_iff (n := o.n.toNat) (l := l) (by omega)).not.mpr hn
    have hlive := liveBytes_le_byteOff o.w.toNat (le_ceilDiv_mul o.n.toNat (l := l) (by omega))
    have hstep := (byteOff_succ_le hw hl (ceilDiv o.n.toNat l - 1)).2
    rw [Nat.sub_add_cancel (Nat.pos_of_ne_zero hg)] at hstep
    omega
  unfold windowSpan blockSpan
  by_cases hn : o.n.toNat = 0
  · simp [hn, liveBytes, ceilDiv]
  · have h4 := last 4 (.inl rfl) hn
    have hl' := last l hl hn
    simp only [hn, if_false]
    rw [byteOff] at h4 hl'
    omega

theorem covers_head (r : Span) {n : Nat} (rs : List Span) (hn : n ≤ r.len) : Covers (r :: rs) r.base n :=
  ⟨r, List.mem_cons_self, le_rfl, Nat.add_le_add_left hn _⟩

/-- With a key the read footprint of a shared scan has the key table and the source. -/
theorem sharedSpans_cover {o : Latches} (h : o.k.toNat ≠ 0) (source : Span) {n : Nat} (hn : n ≤ source.len) :
    Covers (sharedSpans o source) o.keys.toNat (2 * o.k.toNat) ∧ Covers (sharedSpans o source) source.base n := by
  rw [sharedSpans, if_neg h]
  exact ⟨covers_head ⟨_, _⟩ _ le_rfl, source, by simp, le_rfl, Nat.add_le_add_left hn _⟩

/-- The live bytes of the stream are in the read footprint of every command that reads it. -/
theorem readSpans_cover_stream {i : Instr} {j : Job} (hw : j.w ≤ 16) (h : ReadsStream i j) :
    Covers (readSpans i j.op) j.src (liveBytes j.w j.n) := by
  have live : liveBytes j.w j.n ≤ (liveSpan j.op).len := (liveWords_le j.w j.n).1
  have win (l : Nat) (hl : l = 4 ∨ l = 8) : liveBytes j.w j.n ≤ (windowSpan j.op l).len := (liveBytes_le_regions j.op hw hl).1
  have block : liveBytes j.w j.n ≤ (blockSpan j.op).len := (liveBytes_le_regions j.op hw (.inl rfl)).2
  have key (hi : i.op = .shscan) : j.op.k.toNat ≠ 0 := by
    rcases h with h | h | h
    · exact absurd (hi.symm.trans h) nofun
    · exact absurd (hi.symm.trans h) nofun
    · exact h.2
  cases i
  case pack128 | pack256 | maskgen128 | maskgen256 => rcases h with h | h | ⟨h, -⟩ <;> exact absurd h nofun
  case decodeS | scanS => exact covers_head _ [] live
  case decodeV128 | decodeV128M | decodeV128U | scanV128 | scanV128I | scanV128U => exact covers_head _ [] (win 4 (.inl rfl))
  case decodeV256 | decodeV256V | scanV256 | scanV256I => exact covers_head _ [] (win 8 (.inr rfl))
  case decodeV128A => exact covers_head _ [] block
  case shscanV128 | shscanV128X | shscanT => exact (sharedSpans_cover (key rfl) _ (win 4 (.inl rfl))).2
  case shscanV256 | shscanV256X => exact (sharedSpans_cover (key rfl) _ (win 8 (.inr rfl))).2
  case shscanH4 | shscanH8 => exact (sharedSpans_cover (key rfl) _ live).2

theorem readSpans_cover_keys {i : Instr} {j : Job} (hi : i.op = .shscan) (hk : j.k ≠ 0) :
    Covers (readSpans i j.op) j.keys (2 * j.k) := by
  cases i
  case shscanV128 | shscanV256 | shscanV128X | shscanV256X | shscanH4 | shscanH8 | shscanT =>
    exact (sharedSpans_cover hk _ (Nat.zero_le _)).1
  all_goals exact absurd hi nofun

theorem readSpans_cover_column {i : Instr} {j : Job} (hi : i.op = .pack) : Covers (readSpans i j.op) j.src (2 * j.n) := by
  cases i
  case pack128 | pack256 => exact covers_singleton _ _
  all_goals exact absurd hi nofun

/-- What memories that agree on a region agree on. -/
theorem Covers.byteAt_eq {rs : List Span} {m m' : Memory} {b n k : Nat} (hc : Covers rs b n)
    (h : ∀ a, a < addrSpace → inSpans rs a = true → byteAt m a = byteAt m' a) (hk : k < n) :
    byteAt m (b + k) = byteAt m' (b + k) := by
  rw [← byteAt_mod m, ← byteAt_mod m', h _ (mod_lt_addrSpace _) (hc.inSpans_eq_true hk (Nat.mod_mod _ _).symm)]

theorem streamBit_eq_of_covers {rs : List Span} {m m' : Memory} {j : Job} (hc : Covers rs j.src (liveBytes j.w j.n))
    (h : ∀ a, a < addrSpace → inSpans rs a = true → byteAt m a = byteAt m' a) {b : Nat} (hb : b < j.w * j.n) :
    streamBit m j.src b = streamBit m' j.src b := by
  have hk : b / 8 < liveBytes j.w j.n := (lt_ceilDiv_iff (by decide)).mpr (by omega)
  rw [streamBit, streamBit, hc.byteAt_eq h hk]

/-- Memories that agree on the read footprint hold the same inputs. -/
theorem sameInputs_of_readSpans {i : Instr} {j : Job} {m m' : Memory} (hw : j.w ≤ 16)
    (h : ∀ a, a < addrSpace → inSpans (readSpans i j.op) a = true → byteAt m a = byteAt m' a) : SameInputs i j m m' where
  column hi a ha := by
    obtain ⟨hlo, hhi⟩ := ha
    rw [show a = j.src + (a - j.src) by omega]
    exact (readSpans_cover_column hi).byteAt_eq h (by omega)
  stream hi _ hb := streamBit_eq_of_covers (readSpans_cover_stream hw hi) h hb
  keys hi x hx := memRead_congr fun k hk => by
    rw [Nat.add_assoc]
    exact (readSpans_cover_keys hi (by omega)).byteAt_eq h (by omega)

/-! ## What a command that may run is given -/

theorem ready_not_wraps {i : Instr} {s : State} (h : Ready i s) : ∀ r ∈ writeSpans i s.op, r.wraps = false := by
  obtain ⟨-, hall, -, -⟩ := (contractHeld_iff s i).mp h.contract
  exact fun r hr => (hall r (List.mem_append_right _ hr)).1

/-- No byte of the read footprint is in the write footprint. -/
theorem ready_apart {i : Instr} {s : State} (h : Ready i s) {a : Nat} (ha : a < addrSpace)
    (hr : inSpans (readSpans i s.op) a = true) : inSpans (writeSpans i s.op) a = false := by
  obtain ⟨-, hall, hap, -⟩ := (contractHeld_iff s i).mp h.contract
  have hdis := (spans_apart_iff (fun r hr => (hall r (List.mem_append_left _ hr)).1) (ready_not_wraps h)).mp hap a ha
  exact Bool.eq_false_iff.mpr fun hw => hdis ⟨hr, hw⟩

/-- A command that may run does not overwrite its stream. -/
theorem ready_streamKept {i : Instr} {s : State} (h : Ready i s) (hi : ReadsStream i s.job) (m₀ : Memory) :
    StreamKept (writeSpans i s.op) s.job m₀ := by
  obtain ⟨-, hw, -, -⟩ := startStop_none h.starts
  intro m hm b hb
  exact streamBit_eq_of_covers (readSpans_cover_stream (j := s.job) hw hi) (fun a ha hr => hm a (ready_apart h ha hr)) hb

/-! ## Every command -/

/-- The body of a shared scan ends normally and leaves no count. -/
theorem shscanBody_done {i : Instr} (hi : i.op = .shscan) (j : Job) (e : Engine) : ∃ f, bodyOf i j e = .done f 0 := by
  have vertical (l : Nat) (il : Bool) : ∃ f, verticalBody l il j e = .done f 0 := by
    unfold verticalBody
    simp only
    split <;> exact ⟨_, rfl⟩
  cases i
  case shscanV128 | shscanV256 | shscanV128X | shscanV256X => exact vertical _ _
  case shscanH4 | shscanH8 | shscanT => exact ⟨_, rfl⟩
  all_goals exact absurd hi nofun

/-- Without a key a shared scan has an empty write footprint. -/
theorem shscan_write_len_of_no_key {i : Instr} (hi : i.op = .shscan) {o : Latches} (hk : o.k.toNat = 0) {r : Span}
    (hr : r ∈ writeSpans i o) : r.len = 0 := by
  cases i
  case shscanV128X | shscanV256X =>
    rw [List.mem_singleton.mp hr, hk, Nat.zero_mul]
  case shscanV128 | shscanV256 | shscanT | shscanH4 | shscanH8 =>
    rw [writeSpans, bitmapSpans, hk] at hr
    exact absurd hr List.not_mem_nil
  all_goals exact absurd hi nofun

theorem shscan_sameEnd_of_no_key {i : Instr} (hi : i.op = .shscan) {j : Job} (hk : j.k = 0) (e f : Engine) :
    SameEnd (writeSpans i j.op) (bodyOf i j e) (bodyOf i j f) := by
  obtain ⟨e', he⟩ := shscanBody_done hi j e
  obtain ⟨f', hf⟩ := shscanBody_done hi j f
  rw [he, hf]
  refine .done 0 fun r hr a ha => ?_
  rw [shscan_write_len_of_no_key hi hk hr] at ha
  exact absurd ha.2 (Nat.not_lt.mpr ha.1)

/-- Runs of a command over memories with the same inputs end alike. -/
theorem bodyOf_sameEnd {i : Instr} {j : Job} {e f : Engine} (hw1 : 1 ≤ j.w) (hw : j.w ≤ 16) (hnw : 0 < j.nwork)
    (hm : e.mem.wf = true) (hm' : f.mem.wf = true) (hssm : e.ssm = f.ssm) (hin : SameInputs i j e.mem f.mem)
    (hs : ReadsStream i j → StreamKept (writeSpans i j.op) j e.mem)
    (hs' : ReadsStream i j → StreamKept (writeSpans i j.op) j f.mem) :
    SameEnd (writeSpans i j.op) (bodyOf i j e) (bodyOf i j f) := by
  by_cases hk : i.op = .shscan ∧ j.k = 0
  · exact shscan_sameEnd_of_no_key hk.1 hk.2 e f
  have hkey (hi : i.op = .shscan) : j.k ≠ 0 := fun h0 => hk ⟨hi, h0⟩
  have shared (hi : i.op = .shscan) : ReadsStream i j := .inr (.inr ⟨hi, hkey hi⟩)
  have alike (hi : ReadsStream i j) : Alike j.src (j.w * j.n) (fun _ => False) e.mem f.mem :=
    ⟨hm, hm', hin.stream hi, fun _ h => h.elim⟩
  have column (hi : i.op = .pack) : Alike 0 0 (Within j.src (2 * j.n)) e.mem f.mem :=
    ⟨hm, hm', fun _ h => absurd h (Nat.not_lt_zero _), hin.column hi⟩
  have scan (l : Nat) (hl : l = 4 ∨ l = 8) (cmp : Compare) (hcmp : cmp.ByField) (hi : i.op = .scan) :
      SameEnd [⟨j.dst, ceilDiv j.n 8⟩] (scanVectorBody l 1 cmp j e) (scanVectorBody l 1 cmp j f) := by
    have h := scanVectorBody_sameEnd hcmp hw1 hw (.inl rfl) hl (alike (.inr (.inl hi)))
    rwa [Nat.one_mul, Nat.mul_one] at h
  cases i
  case decodeV128U =>
    rw [bodyOf_decodeV128U, bodyOf]
    exact decodeVectorBody_sameEnd hw1 hw (.inl rfl) (loadUnaligned_alike j 4) (realignMul_extractsField _) (alike (.inl rfl))
  all_goals unfold bodyOf
  case pack128 => exact packBody_sameEnd hw (.inl rfl) rfl (column rfl)
  case pack256 => exact packBody_sameEnd hw (.inr rfl) rfl (column rfl)
  case maskgen128 | maskgen256 =>
    exact maskgenBody_sameEnd (src := 0) (B := 0) ⟨hm, hm', fun _ h => absurd h (Nat.not_lt_zero _), fun _ h => h.elim⟩
  case decodeS =>
    exact decodeScalarBody_sameEnd hw1 hw (covers_singleton _ _) (hs (.inl rfl)) (hs' (.inl rfl)) (alike (.inl rfl))
  case decodeV128 =>
    exact decodeVectorBody_sameEnd hw1 hw (.inl rfl) (loadUnaligned_alike j 4) (realignMul_extractsField _) (alike (.inl rfl))
  case decodeV128M =>
    exact decodeVectorBody_sameEnd hw1 hw (.inl rfl) (loadUnaligned_alike j 4) (realignMulMask_extractsField _)
      (alike (.inl rfl))
  case decodeV128A =>
    exact decodeVectorBody_sameEnd hw1 hw (.inl rfl) (loadAligned_alike j) (realignMul_extractsField _) (alike (.inl rfl))
  case decodeV256 =>
    exact decodeVectorBody_sameEnd hw1 hw (.inr rfl) (loadUnaligned_alike j 8) (realignMul_extractsField _) (alike (.inl rfl))
  case decodeV256V =>
    exact decodeVectorBody_sameEnd hw1 hw (.inr rfl) (loadUnaligned_alike j 8) (realignShift_extractsField _)
      (alike (.inl rfl))
  case scanS =>
    exact scanScalarBody_sameEnd hw1 hw (covers_singleton _ _) (hs (.inr (.inl rfl))) (hs' (.inr (.inl rfl)))
      (alike (.inr (.inl rfl)))
  case scanV128 => exact scan 4 (.inl rfl) _ compareRealigned_byField rfl
  case scanV256 => exact scan 8 (.inr rfl) _ compareRealigned_byField rfl
  case scanV128I => exact scan 4 (.inl rfl) _ compareInPlace_byField rfl
  case scanV256I => exact scan 8 (.inr rfl) _ compareInPlace_byField rfl
  case scanV128U =>
    exact scanVectorBody_sameEnd compareRealigned_byField hw1 hw (.inr rfl) (.inl rfl) (alike (.inr (.inl rfl)))
  case shscanV128 =>
    exact verticalBody_separate_sameEnd hw1 hw (.inl rfl) (hkey rfl) (hin.keys rfl) (alike (shared rfl))
  case shscanV256 =>
    exact verticalBody_separate_sameEnd hw1 hw (.inr rfl) (hkey rfl) (hin.keys rfl) (alike (shared rfl))
  case shscanV128X =>
    exact verticalBody_interleaved_sameEnd hw1 hw (.inl rfl) (hkey rfl) (hin.keys rfl) (alike (shared rfl))
  case shscanV256X =>
    exact verticalBody_interleaved_sameEnd hw1 hw (.inr rfl) (hkey rfl) (hin.keys rfl) (alike (shared rfl))
  case shscanH4 | shscanH8 =>
    exact horizontalBody_sameEnd hw1 hw (by decide) (fun x hx => covers_bitmapSpans j _ hx) (hs (shared rfl))
      (hs' (shared rfl)) hssm (hin.keys rfl) (alike (shared rfl))
  case shscanT => exact threadedBody_sameEnd hw1 hw hnw hssm (hin.keys rfl) (alike (shared rfl))

/-- What two ends have in common that are alike over a write footprint. -/
structure ResultsAlike (ws : List Span) (t t' : State) : Prop where
  count : t'.matchCount = t.matchCount
  errcode : t'.errcode = t.errcode
  errinfo : t'.errinfo = t.errinfo
  bytes : ∀ r ∈ ws, ∀ a, Within r.base r.len a → byteAt t'.eng.mem a = byteAt t.eng.mem a

theorem SameEnd.resultsAlike {ws : List Span} {r r' : RunEnd} (h : SameEnd ws r r') (s s' : State) :
    ResultsAlike ws (s.conclude r) (s'.conclude r') := by
  cases h with
  | done n h => exact ⟨rfl, rfl, rfl, fun r hr a ha => (h r hr a ha).symm⟩
  | stop k h => exact ⟨rfl, rfl, rfl, fun r hr a ha => (h r hr a ha).symm⟩

/-- A command that may run has the same results from every canonical memory with the same inputs. -/
theorem exec_of_sameInputs {i : Instr} {s : State} {m : Memory} (h : Ready i s) (hm : m.wf = true)
    (hin : SameInputs i s.job s.eng.mem m) :
    ∃ t t', exec i s = .next t ∧ exec i { s with eng := { s.eng with mem := m } } = .next t' ∧
      ResultsAlike (writeSpans i s.op) t t' := by
  obtain ⟨hw1, hw, -, -⟩ := startStop_none h.starts
  have h' : Ready i { s with eng := { s.eng with mem := m } } := ⟨h.starts, h.contract, hm⟩
  refine ⟨_, _, exec_ready h, exec_ready h', ?_⟩
  exact (bodyOf_sameEnd (j := s.job) (f := { s.eng with mem := m }) hw1 hw (Nat.succ_pos _) h.canonical hm rfl hin
    (fun hi => ready_streamKept h hi _) (fun hi => ready_streamKept h hi _)).resultsAlike _ _

/-- Settles O48: memories that agree on the read footprint hold the same inputs. -/
theorem onlyTheReadFootprintMatters : Obligations.OnlyTheReadFootprintMatters := by
  intro i s m h hm hread
  obtain ⟨-, hw, -, -⟩ := startStop_none h.starts
  obtain ⟨t, t', ht, ht', hcount, hcode, hinfo, hbytes⟩ := exec_of_sameInputs h hm
    (sameInputs_of_readSpans (j := s.job) hw fun a ha hr => (hread a ha hr).symm)
  refine ⟨t, t', ht, ht', hcount, hcode, hinfo, fun a ha hin => ?_⟩
  obtain ⟨r, hr, hra⟩ := (inSpans_iff _ a).mp hin
  exact hbytes r hr a ((Span.has_of_not_wraps (ready_not_wraps h r hr) ha).mp hra)

/-! ## Results by their format -/

theorem ResultsAlike.byteAt_eq {ws : List Span} {t t' : State} (h : ResultsAlike ws t t') {b n k : Nat} (hc : Covers ws b n)
    (hk : k < n) : byteAt t'.eng.mem (b + k) = byteAt t.eng.mem (b + k) := by
  obtain ⟨r, hr, h1, h2⟩ := hc
  exact h.bytes r hr _ ⟨by omega, by omega⟩

theorem ResultsAlike.bit_eq {ws : List Span} {t t' : State} (h : ResultsAlike ws t t') {b n k : Nat} (hc : Covers ws b n)
    (hk : k < n) (x : Nat) : (byteAt t'.eng.mem (b + k)).getLsbD x = (byteAt t.eng.mem (b + k)).getLsbD x := by
  rw [h.byteAt_eq hc hk]

/-- The entries of the decoded array are in the write footprint of DECODE. -/
theorem writeSpans_cover_entries {i : Instr} (hi : i ∈ decodes) (o : Latches) :
    Covers (writeSpans i o) o.dst.toNat (4 * o.n.toNat) := by
  have group (l : Nat) (hl : 0 < l) : 4 * o.n.toNat ≤ 4 * l * ceilDiv o.n.toNat l := by
    have := le_ceilDiv_mul o.n.toNat hl
    rw [Nat.mul_assoc, Nat.mul_comm l]
    omega
  cases i
  case decodeS => exact covers_singleton _ _
  case decodeV256 | decodeV256V => exact covers_head ⟨_, _⟩ [] (group 8 (by decide))
  case decodeV128 | decodeV128M | decodeV128A | decodeV128U => exact covers_head ⟨_, _⟩ [] (group 4 (by decide))
  all_goals exact absurd hi (by decide)

theorem le_bitmapLen (i : Instr) (n : Nat) : ceilDiv n 8 ≤ bitmapLen i n := by
  have hc : ceilDiv n 8 ≤ 4 * ceilDiv n 32 := by unfold ceilDiv; omega
  cases i
  case scanV128U | shscanH4 | shscanH8 => exact hc
  all_goals exact le_rfl

theorem writeSpans_cover_bitmap {i : Instr} (hi : i ∈ scans) (o : Latches) :
    Covers (writeSpans i o) o.dst.toNat (ceilDiv o.n.toNat 8) := by
  have hlen := le_bitmapLen i o.n.toNat
  cases i
  case scanS | scanV128 | scanV256 | scanV128I | scanV256I | scanV128U => exact covers_head ⟨_, _⟩ [] hlen
  all_goals exact absurd hi (by decide)

theorem writeSpans_cover_bitmaps {i : Instr} (hi : i ∈ separateScans) (j : Job) {x : Nat} (hx : x < j.k) :
    Covers (writeSpans i j.op) (bitmapBase j x) (ceilDiv j.n 8) := by
  have hcov := (covers_bitmapSpans j (bitmapLen i j.n) hx).part le_rfl (Nat.add_le_add_left (le_bitmapLen i j.n) _)
  cases i
  case shscanV128 | shscanV256 | shscanT | shscanH4 | shscanH8 => exact hcov
  all_goals exact absurd hi (by decide)

theorem writeSpans_cover_octets {i : Instr} (hi : i ∈ interleavedScans) (j : Job) {t x : Nat} (ht : t < ceilDiv j.n 8)
    (hx : x < j.k) : Covers (writeSpans i j.op) (octetAddr j true t x) 1 := by
  cases i
  case shscanV128X | shscanV256X => exact covers_octet_interleaved (covers_singleton _ _) ht hx
  all_goals exact absurd hi (by decide)

/-- Settles O49: the live bits of the stream and the keys are all the inputs of the readers. -/
theorem paddingNeverMatters : Obligations.PaddingNeverMatters := by
  intro i s m h hm hstream hkeys
  have byte {x : Nat} (hx : x < s.op.n.toNat) : x / 8 < ceilDiv s.op.n.toNat 8 := (lt_ceilDiv_iff (by decide)).mpr (by omega)
  by_cases hpack : i.op = .pack
  · refine ⟨_, _, exec_ready h, exec_ready (s := { s with eng := { s.eng with mem := m } }) ⟨h.starts, h.contract, hm⟩, ?_⟩
    cases i
    case pack128 | pack256 =>
      exact ⟨fun hi => absurd hi (by decide), fun hi => absurd hi (by decide), fun hi => absurd hi (by decide),
        fun hi => absurd hi (by decide)⟩
    all_goals exact absurd hpack nofun
  obtain ⟨t, t', ht, ht', hres⟩ := exec_of_sameInputs h hm
    ⟨fun hi => absurd hi hpack, fun _ b hb => (hstream b hb).symm, fun hi x hx => (hkeys hi x hx).symm⟩
  refine ⟨t, t', ht, ht', fun hi x hx => ?_, fun hi => ⟨hres.count, fun x hx => ?_⟩, fun hi k x hk hx => ?_,
    fun hi k x hk hx => ?_⟩
  · refine memRead_congr fun k hk => ?_
    rw [Nat.add_assoc]
    exact hres.byteAt_eq (writeSpans_cover_entries hi s.op) (by omega)
  · exact hres.bit_eq (writeSpans_cover_bitmap hi s.op) (byte hx) _
  · exact hres.bit_eq (writeSpans_cover_bitmaps hi s.job hk) (byte hx) _
  · exact hres.bit_eq (writeSpans_cover_octets hi s.job (byte hx) hk) Nat.one_pos _

end Sys2Proof.Machine

/-! PROOFS. The decoder and the encoder (spec/30_encoding.md): the legal words are the words of the 24 commands, and the
well-formed fields are their fields. -/

namespace Sys2Proof

/-! ## Each command and its word -/

/-- The family `Laws.Encoding`, for every command. -/
theorem encoding_statement (i : Instr) : Laws.Encoding.Statement i := by
  open Laws.Encoding in
  exact i.casesOn pack128 pack256 maskgen128 maskgen256 decodeS decodeV128 decodeV256 decodeV128M decodeV128A decodeV128U
    decodeV256V scanS scanV128 scanV256 scanV128I scanV256I scanV128U shscanV128 shscanV256 shscanV128X shscanV256X
    shscanH4 shscanH8 shscanT

theorem fields_wf (i : Instr) : i.fields.wf = true := (encoding_statement i).1

@[simp] theorem decode_encode (i : Instr) : decode (encode i) = some i := (encoding_statement i).2

/-- A word that decodes is the word of its command: each arm of the decoder fixes all 32 bits. -/
theorem eq_encode_of_decode {w : BitVec 32} {i : Instr} (h : decode w = some i) : w = encode i := by
  unfold decode at h
  split at h
  case h_25 => exact absurd h nofun
  all_goals
    cases h
    exact BitVec.eq_of_toNat_eq ‹_›

theorem decode_eq_some_iff {w : BitVec 32} {i : Instr} : decode w = some i ↔ w = encode i :=
  ⟨eq_encode_of_decode, fun h => h ▸ decode_encode i⟩

theorem encode_mem_legalWords (i : Instr) : (encode i, i) ∈ legalWords := by cases i <;> decide

theorem eq_encode_of_mem_legalWords : ∀ p ∈ legalWords, p.1 = encode p.2 := by decide

theorem mem_legalWords_iff {w : BitVec 32} {i : Instr} : (w, i) ∈ legalWords ↔ w = encode i :=
  ⟨eq_encode_of_mem_legalWords (w, i), fun h => h ▸ encode_mem_legalWords i⟩

/-- Settles O2: by `Laws.Encoding`, command by command. -/
theorem decodeOfEncodeIsIdentity : Obligations.DecodeOfEncodeIsIdentity := decode_encode

/-- Settles O1: the decoder and the table both hold the words of the encoder. -/
theorem decodeReadsExactlyTheTable : Obligations.DecodeReadsExactlyTheTable :=
  fun _ _ => decode_eq_some_iff.trans mem_legalWords_iff.symm

/-- Settles O4: the words are those of the encoder. -/
theorem writtenOutWordsDecode : Obligations.WrittenOutWordsDecode :=
  ⟨decode_encode .pack128, decode_encode .maskgen256, decode_encode .decodeV256V, decode_encode .scanV128U,
    decode_encode .shscanV256X⟩

/-! ## Words and fields (spec/30_encoding.md R101) -/

@[simp] theorem CmdFields.ofWord_toWord (f : CmdFields) : ofWord f.toWord = f := by
  obtain ⟨op, strat, vw, layout, zero⟩ := f
  simp only [ofWord, toWord, mk.injEq]
  refine ⟨?_, ?_, ?_, ?_, ?_⟩ <;> ext b hb <;> grind

@[simp] theorem CmdFields.toWord_ofWord (w : BitVec 32) : (ofWord w).toWord = w := by
  ext b hb
  grind [ofWord, toWord]

theorem eq_encode_iff_fields_eq {w : BitVec 32} {i : Instr} : w = encode i ↔ i.fields = CmdFields.ofWord w := by
  constructor
  · rintro rfl
    exact (CmdFields.ofWord_toWord i.fields).symm
  · intro h
    rw [encode, h, CmdFields.toWord_ofWord]

/-! ## Well-formed fields -/

theorem wf_iff_checks (f : CmdFields) :
    f.wf = true ↔ f.opOk = true ∧ f.stratOk = true ∧ f.vwOk = true ∧ f.layoutOk = true ∧ f.zeroOk = true := by
  simp only [CmdFields.wf, Bool.and_eq_true, and_assoc]

/-- The commands of an OP value (spec/30_encoding.md R102, R103). -/
def commandsOf (op : BitVec 4) : List Instr :=
  match op.toNat with
  | 1 => packs
  | 2 => maskgens
  | 3 => decodes
  | 4 => scans
  | 5 => separateScans ++ interleavedScans
  | _ => []

theorem op_of_opOk : ∀ op : BitVec 4, (op != 0 && op ≤ 5) = true → op = 1 ∨ op = 2 ∨ op = 3 ∨ op = 4 ∨ op = 5 := by
  decide

/-- Under one OP, the 64 values of STRAT, VW and LAYOUT hold no well-formed fields but those of its commands. -/
theorem fields_mem_commandsOf {op : BitVec 4} (hop : op = 1 ∨ op = 2 ∨ op = 3 ∨ op = 4 ∨ op = 5) :
    ∀ (strat : BitVec 4) (vw layout : BitVec 1), (⟨op, strat, vw, layout, 0⟩ : CmdFields).wf = true →
      ⟨op, strat, vw, layout, 0⟩ ∈ (commandsOf op).map Instr.fields := by
  rcases hop with rfl | rfl | rfl | rfl | rfl <;> decide

theorem wf_iff_exists_fields_eq {f : CmdFields} : f.wf = true ↔ ∃ i : Instr, i.fields = f := by
  constructor
  · intro h
    obtain ⟨hop, -, -, -, hzero⟩ := (wf_iff_checks f).mp h
    obtain ⟨op, strat, vw, layout, zero⟩ := f
    obtain rfl : zero = 0 := eq_of_beq hzero
    obtain ⟨i, -, hi⟩ := List.mem_map.mp (fields_mem_commandsOf (op_of_opOk op hop) strat vw layout h)
    exact ⟨i, hi⟩
  · rintro ⟨i, rfl⟩
    exact fields_wf i

/-- Settles O3: on both sides stands that the fields of the word are those of a command. -/
theorem legalWordsAreTheWellFormedFields : Obligations.LegalWordsAreTheWellFormedFields := by
  intro w
  rw [Bool.eq_iff_iff]
  calc (decode w).isSome = true
      ↔ ∃ i, decode w = some i := Option.isSome_iff_exists
    _ ↔ ∃ i : Instr, i.fields = CmdFields.ofWord w :=
        exists_congr fun _ => decode_eq_some_iff.trans eq_encode_iff_fields_eq
    _ ↔ (CmdFields.ofWord w).wf = true := wf_iff_exists_fields_eq.symm

end Sys2Proof

/-! PROOFS. The mask factory (spec/40_mask_factory.md): its constants are in bounds, and MASKGEN writes both mask sets. -/

namespace Sys2Proof.Machine

/-! ## Bounds of the mask constants -/

/-- The second phase of spec/40_mask_factory.md R130 is half a byte where four lanes of odd width meet, and otherwise 0. -/
theorem phase_le {w l q : Nat} (hl : l = 4 ∨ l = 8) (hq : q < 2) : phase w l q ≤ 4 := by
  have hp : l * w % 8 ≤ 4 := by rcases hl with rfl | rfl <;> omega
  calc q * (l * w % 8) ≤ 1 * 4 := Nat.mul_le_mul (Nat.le_of_lt_succ hq) hp
    _ = 4 := rfl

theorem laneOff_le {w l q x : Nat} (h : LegalLane w l q x) : laneOff w l q x ≤ 4 + 16 * (l - 1) :=
  Nat.add_le_add (phase_le h.l_eq h.q_lt) (Nat.mul_le_mul h.w_le (Nat.le_sub_one_of_lt h.x_lt))

theorem laneByte_le {w l q x : Nat} (h : LegalLane w l q x) : laneByte w l q x ≤ (4 + 16 * (l - 1)) / 8 :=
  Nat.div_le_div_right (laneOff_le h)

/-- The last shuffle index of the last lane is inside the window of `4·L` bytes. -/
theorem lastIndex_lt {l : Nat} (hl : l = 4 ∨ l = 8) : (4 + 16 * (l - 1)) / 8 + 3 < 4 * l := by
  rcases hl with rfl | rfl <;> decide

/-- Settles O24: a lane starts at most 4 bits past `16·(L-1)`, and its shift count is at most 7. -/
theorem maskConstantsAreInBounds : Obligations.MaskConstantsAreInBounds := by
  intro w l q x h1 h16 hl hq hx
  have hs := laneShift_lt w l q x
  refine ⟨Nat.add_le_add_right (laneByte_le ⟨h1, h16, hl, hq, hx⟩) 3, lastIndex_lt hl, by omega,
    Nat.pow_le_pow_right two_pos (by omega), fun hw hs0 => ?_⟩
  rw [hs0, hw]

/-! ## Stores that fill a region -/

/-- A store to the `n` bytes at `b`: it writes there only, and then `Q`, which speaks of these bytes only, holds of them. -/
structure Fills (b n : Nat) (Q : Memory → Prop) (store : Memory → Memory) : Prop where
  wf : ∀ m, m.wf = true → (store m).wf = true
  keeps : ∀ m a, (∀ k, k < n → (b + k) % addrSpace ≠ a % addrSpace) → byteAt (store m) a = byteAt m a
  holds : ∀ m, m.wf = true → Q (store m)
  reads : ∀ m m', (∀ k, k < n → byteAt m' (b + k) = byteAt m (b + k)) → Q m → Q m'

theorem fills_memWrite {b n v : Nat} (hv : v < 256 ^ n) (hn : n ≤ addrSpace) :
    Fills b n (fun m => memRead m b n = v) fun m => memWrite m b n v where
  wf _ h := memWrite_wf h b n v
  keeps m _ h := byteAt_memWrite_ne m v h
  holds _ h := (memRead_memWrite h b n v hn).trans (Nat.mod_eq_of_lt hv)
  reads _ _ hb h := (memRead_congr hb).trans h

theorem Fills.sameOutside {b n : Nat} {Q : Memory → Prop} {store : Memory → Memory} (h : Fills b n Q store)
    (hn : b + n ≤ addrSpace) (m : Memory) : SameOutside b n m (store m) :=
  fun a ha hout => h.keeps m a fun k hk he => hout (by
    rw [Nat.mod_eq_of_lt ha, Nat.mod_eq_of_lt (by omega)] at he
    omega)

/-- A loop whose passes fill one cell of a region after the other fills the region, when the region does not meet itself:
no pass reaches the cells filled before it. -/
theorem Fills.upto {b c n : Nat} {Q : Nat → Memory → Prop} {store : Nat → Memory → Memory} (hn : c * n ≤ addrSpace)
    (h : ∀ i, i < n → Fills (b + c * i) c (Q i) (store i)) :
    Fills b (c * n) (fun m => ∀ i, i < n → Q i m) (upto n store) := by
  have next {k i : Nat} (hk : k < i) : c * k + c ≤ c * i := Nat.mul_succ c k ▸ Nat.mul_le_mul_left c hk
  refine ⟨fun m hm => ?_, fun m a ha => ?_, fun m hm => ?_, fun m m' hb hm i hi => ?_⟩
  · exact upto_inv (fun _ (x : Memory) => x.wf = true) hm fun i x hi => (h i hi).wf x
  · refine upto_inv (fun _ x => byteAt x a = byteAt m a) rfl fun i x hi hx => ((h i hi).keeps x a fun k hk => ?_).trans hx
    rw [Nat.add_assoc]
    exact ha _ (Nat.lt_of_lt_of_le (Nat.add_lt_add_left hk _) (next hi))
  · refine (upto_inv (fun i (x : Memory) => x.wf = true ∧ ∀ k, k < i → Q k x) ⟨hm, nofun⟩ fun i x hi hx => ?_).2
    refine ⟨(h i hi).wf x hx.1, fun k hk => ?_⟩
    rcases Nat.lt_succ_iff_lt_or_eq.mp hk with hk | rfl
    · refine (h k (by omega)).reads x _ (fun y hy => (h i hi).keeps x _ fun z hz => ?_) (hx.2 k hk)
      have hki := next hk
      have hin := next hi
      unfold addrSpace at *
      omega
    · exact (h k hi).holds x hx.1
  · refine (h i hi).reads m m' (fun k hk => ?_) (hm i hi)
    rw [Nat.add_assoc]
    exact hb _ (Nat.lt_of_lt_of_le (Nat.add_lt_add_left hk _) (next hi))

/-! ## The mask dump -/

theorem storeLanes_fills {b : Nat} {v : List Lane} (hv : 4 * v.length ≤ addrSpace) :
    Fills b (4 * v.length) (fun m => ∀ x, x < v.length → memRead m (b + 4 * x) 4 = (v.getD x 0).toNat) (storeLanes b v) :=
  Fills.upto hv fun x _ => fills_memWrite (v.getD x 0).isLt (by decide)

theorem storeShuffle_fills {b : Nat} {v : List Nat} (hv : v.length ≤ addrSpace)
    (hb : ∀ x, x < v.length → v.getD x 0 < 256) :
    Fills b v.length (fun m => ∀ x, x < v.length → memRead m (b + x) 1 = v.getD x 0) (storeShuffle b v) := by
  have h := Fills.upto (b := b) (c := 1) (by rwa [Nat.one_mul]) fun x hx =>
    fills_memWrite (b := b + 1 * x) (hb x hx) (by decide)
  simp only [Nat.one_mul] at h
  exact h

/-- The six vectors of lanes of a mask set, in the order of spec/40_mask_factory.md R143. -/
def MaskSet.lanes (ms : MaskSet) : Nat → List Lane
  | 0 => ms.mult
  | 1 => ms.shcnt
  | 2 => ms.cleanIn
  | 3 => ms.cleanRe
  | 4 => ms.predIn
  | _ => ms.predRe

/-- The store of one of the seven vectors of a mask set, the shuffle bytes first (spec/40_mask_factory.md R143). -/
def storeVector (l base : Nat) (ms : MaskSet) : Nat → Memory → Memory
  | 0 => storeShuffle base ms.shuffle
  | i + 1 => storeLanes (base + 4 * l * (i + 1)) (ms.lanes i)

theorem storeSet_eq_upto (l base : Nat) (ms : MaskSet) : storeSet l base ms = upto 7 (storeVector l base ms) := by
  funext m
  simp only [upto, storeVector, MaskSet.lanes, Nat.mul_right_comm 4 l, Nat.reduceMul, Nat.reduceAdd]
  rfl

/-- One of the seven vectors of a mask set is in memory. -/
def VectorAt (l base : Nat) (ms : MaskSet) : Nat → Memory → Prop
  | 0, m => ∀ y, y < 4 * l → memRead m (base + y) 1 = ms.shuffle.getD y 0
  | i + 1, m => ∀ x, x < l → memRead m (base + 4 * l * (i + 1) + 4 * x) 4 = ((ms.lanes i).getD x 0).toNat

theorem length_lanes_maskSet (w l q : Nat) (key : BitVec 16) (i : Nat) :
    ((maskSet w l q (some key)).lanes i).length = l := by
  unfold MaskSet.lanes
  split <;> exact length_lanesOf l _

theorem length_shuffle_maskSet (w l q : Nat) (key : Option (BitVec 16)) : (maskSet w l q key).shuffle.length = 4 * l :=
  length_lanesOf (4 * l) _

/-- Every shuffle index is inside the window, so it is one byte. -/
theorem shuffle_maskSet_lt {w l q y : Nat} (h1 : 1 ≤ w) (h16 : w ≤ 16) (hl : l = 4 ∨ l = 8) (hq : q < 2)
    (key : Option (BitVec 16)) (hy : y < 4 * l) : (maskSet w l q key).shuffle.getD y 0 < 4 * l := by
  have hb := laneByte_le (x := y / 4) ⟨h1, h16, hl, hq, by omega⟩
  have hlast := lastIndex_lt hl
  rw [← Nat.div_add_mod y 4, shuffle_maskSet w l q key (by omega) (by omega)]
  omega

theorem storeVector_fills {w l q : Nat} (h1 : 1 ≤ w) (h16 : w ≤ 16) (hl : l = 4 ∨ l = 8) (hq : q < 2) (key : BitVec 16)
    (base i : Nat) : Fills (base + 4 * l * i) (4 * l) (VectorAt l base (maskSet w l q (some key)) i)
      (storeVector l base (maskSet w l q (some key)) i) := by
  have hsize : 4 * l ≤ 32 := by omega
  cases i with
  | zero =>
    have hlen := length_shuffle_maskSet w l q (some key)
    have h := storeShuffle_fills (b := base) (v := (maskSet w l q (some key)).shuffle)
      (by rw [hlen]; exact hsize.trans (by decide))
      fun y hy => (shuffle_maskSet_lt h1 h16 hl hq _ (hlen ▸ hy)).trans_le (hsize.trans (by decide))
    rwa [hlen] at h
  | succ i =>
    have hlen := length_lanes_maskSet w l q key i
    have h := storeLanes_fills (b := base + 4 * l * (i + 1)) (v := (maskSet w l q (some key)).lanes i)
      (by rw [hlen]; exact hsize.trans (by decide))
    rwa [hlen] at h

theorem storeSet_fills {w l q : Nat} (h1 : 1 ≤ w) (h16 : w ≤ 16) (hl : l = 4 ∨ l = 8) (hq : q < 2) (key : BitVec 16)
    (base : Nat) : Fills base (28 * l) (fun m => ∀ i, i < 7 → VectorAt l base (maskSet w l q (some key)) i m)
      (storeSet l base (maskSet w l q (some key))) := by
  rw [storeSet_eq_upto, show 28 * l = 4 * l * 7 by omega]
  exact Fills.upto (by unfold addrSpace; omega) fun i _ => storeVector_fills h1 h16 hl hq key base i

/-- Both mask sets are in memory, one after the other. -/
def DumpAt (w l base : Nat) (key : BitVec 16) (m : Memory) : Prop :=
  ∀ q, q < 2 → ∀ i, i < 7 → VectorAt l (base + 28 * l * q) (maskSet w l q (some key)) i m

/-- The stores of MASKGEN as a loop over the two sets. -/
def storeDump (w l base : Nat) (key : BitVec 16) : Memory → Memory :=
  upto 2 fun q => storeSet l (base + 28 * l * q) (maskSet w l q (some key))

theorem storeDump_fills {w l : Nat} (h1 : 1 ≤ w) (h16 : w ≤ 16) (hl : l = 4 ∨ l = 8) (base : Nat) (key : BitVec 16) :
    Fills base (56 * l) (DumpAt w l base key) (storeDump w l base key) := by
  rw [show 56 * l = 28 * l * 2 by omega]
  exact Fills.upto (by unfold addrSpace; omega) fun q hq => storeSet_fills h1 h16 hl hq key (base + 28 * l * q)

/-- What MASKGEN leaves: its two stores are the loop over the sets. -/
theorem maskgenBody_cases (l : Nat) (j : Job) (e : Engine) :
    ∃ f, maskgenBody l j e = .done f 0 ∧ f.mem = storeDump j.w l j.dst j.op.key e.mem := by
  refine ⟨_, rfl, ?_⟩
  simp only [storeDump, upto, Nat.mul_zero, Nat.mul_one, Nat.add_zero]
  rfl

/-! ## The lanes of a mask set as numbers -/

theorem mult_toNat {w l q x : Nat} (hw : 1 ≤ w) (hx : x < l) (key : Option (BitVec 16)) :
    ((maskSet w l q key).mult.getD x 0).toNat = 2 ^ (32 - w - laneShift w l q x) := by
  rw [mult_maskSet w q key hx]
  exact Nat.mod_eq_of_lt (Nat.pow_lt_pow_right Nat.one_lt_two (by omega))

theorem shcnt_toNat {l x : Nat} (w q : Nat) (hx : x < l) (key : Option (BitVec 16)) :
    ((maskSet w l q key).shcnt.getD x 0).toNat = laneShift w l q x := by
  rw [shcnt_maskSet w q key hx]
  exact Nat.mod_eq_of_lt ((laneShift_lt w l q x).trans (by decide))

theorem cleanRe_toNat {w l x : Nat} (hw : w ≤ 16) (q : Nat) (hx : x < l) (key : Option (BitVec 16)) :
    ((maskSet w l q key).cleanRe.getD x 0).toNat = 2 ^ w - 1 := by
  rw [cleanRe_maskSet w q key hx]
  exact Nat.mod_eq_of_lt ((Nat.sub_le _ 1).trans_lt (Nat.pow_lt_pow_right Nat.one_lt_two (by omega)))

/-- A number of at most 16 bits, moved to the place of its field in a lane, stays below bit 32. -/
theorem shiftLeft_laneShift_toNat {v : Nat} (hv : v < 2 ^ 16) (w l q x : Nat) :
    (BitVec.ofNat 32 (v <<< laneShift w l q x)).toNat = v * 2 ^ laneShift w l q x := by
  have hs : 2 ^ laneShift w l q x ≤ 2 ^ 7 := Nat.pow_le_pow_right two_pos (Nat.le_of_lt_succ (laneShift_lt w l q x))
  rw [Nat.shiftLeft_eq]
  exact Nat.mod_eq_of_lt ((Nat.mul_le_mul hv.le hs).trans_lt (by decide))

theorem cleanIn_toNat {w l x : Nat} (hw : w ≤ 16) (q : Nat) (hx : x < l) (key : Option (BitVec 16)) :
    ((maskSet w l q key).cleanIn.getD x 0).toNat = (2 ^ w - 1) * 2 ^ laneShift w l q x := by
  rw [cleanIn_maskSet w q key hx]
  exact shiftLeft_laneShift_toNat
    ((Nat.sub_lt (Nat.two_pow_pos w) Nat.one_pos).trans_le (Nat.pow_le_pow_right two_pos hw)) w l q x

theorem predIn_toNat {l x : Nat} (w q : Nat) (hx : x < l) (key : BitVec 16) :
    ((maskSet w l q (some key)).predIn.getD x 0).toNat = key.toNat * 2 ^ laneShift w l q x := by
  rw [show (maskSet w l q (some key)).predIn.getD x 0 = _ from getD_lanesOf _ _ _ hx]
  exact shiftLeft_laneShift_toNat key.isLt w l q x

theorem predRe_toNat {l x : Nat} (w q : Nat) (hx : x < l) (key : BitVec 16) :
    ((maskSet w l q (some key)).predRe.getD x 0).toNat = key.toNat := by
  rw [show (maskSet w l q (some key)).predRe.getD x 0 = _ from getD_lanesOf _ _ _ hx]
  exact BitVec.toNat_setWidth_of_le (by decide)

/-! ## What a dump reads as -/

/-- A shuffle byte of a lane. -/
theorem DumpAt.shuffle {w l base q x k : Nat} {key : BitVec 16} {m : Memory} (h : DumpAt w l base key m) (hq : q < 2)
    (hx : x < l) (hk : k < 4) : (byteAt m (base + 28 * l * q + 4 * x + k)).toNat = laneByte w l q x + k := by
  have hv := h q hq 0 (by decide) (4 * x + k) (by omega)
  rwa [shuffle_maskSet w l q _ hx hk, ← Nat.add_assoc] at hv

/-- A lane of one of the six vectors after the shuffle bytes. -/
theorem DumpAt.lane {w l base q x : Nat} {key : BitVec 16} {m : Memory} (h : DumpAt w l base key m) (hq : q < 2)
    (hx : x < l) {i : Nat} (hi : i < 6) :
    memRead m (base + 28 * l * q + 4 * (i + 1) * l + 4 * x) 4 = (((maskSet w l q (some key)).lanes i).getD x 0).toNat := by
  rw [Nat.mul_right_comm 4 (i + 1) l]
  exact h q hq (i + 1) (Nat.succ_lt_succ hi) x hx

/-! ## MASKGEN -/

theorem laneCount_of_mem_maskgens {i : Instr} (hi : i ∈ maskgens) : laneCount i = 4 ∨ laneCount i = 8 := by
  revert i
  decide

theorem bodyOf_of_mem_maskgens {i : Instr} (hi : i ∈ maskgens) : bodyOf i = maskgenBody (laneCount i) := by
  rcases List.mem_pair.mp hi with rfl | rfl <;> rfl

theorem mem_writeSpans_of_mem_maskgens {i : Instr} (hi : i ∈ maskgens) (o : Latches) :
    ⟨o.dst.toNat, 56 * laneCount i⟩ ∈ writeSpans i o := by
  rcases List.mem_pair.mp hi with rfl | rfl <;> exact List.mem_singleton_self _

/-- A write region of a command that may run ends at or below address `2^64 - 1`. -/
theorem ready_fits {i : Instr} {s : State} (h : Ready i s) {r : Span} (hr : r ∈ writeSpans i s.op) (h0 : 0 < r.len) :
    r.base + r.len ≤ addrSpace := by
  simpa [Span.wraps, h0] using ready_not_wraps h r hr

theorem endedWith_conclude_done (s : State) (e : Engine) (n : BitVec 32) : EndedWith s (s.conclude (.done e n)) n.toNat :=
  ⟨rfl, rfl, rfl, rfl, State.conclude_operandsKept s _⟩

/-- Settles O23: the two sets, their vectors and the lanes are cells that are filled one after the other, and what a cell
holds is the constant of its lane. -/
theorem maskgenWritesTheMaskDump : Obligations.MaskgenWritesTheMaskDump := by
  intro i hi s h
  have hl := laneCount_of_mem_maskgens hi
  obtain ⟨h1, h16, -, -⟩ := startStop_none h.starts
  obtain ⟨e, hbody, hmem⟩ := maskgenBody_cases (laneCount i) s.job s.eng
  have hfill := storeDump_fills h1 h16 hl s.op.dst.toNat s.op.key
  have hfits := ready_fits h (mem_writeSpans_of_mem_maskgens hi s.op) (Nat.mul_pos (by decide) (by omega))
  have hdump : DumpAt s.op.w.toNat (laneCount i) s.op.dst.toNat s.op.key e.mem := hmem ▸ hfill.holds s.eng.mem h.canonical
  refine ⟨s.conclude (.done e 0), ?_, endedWith_conclude_done s e 0, ?_, fun q x hq hx => ?_⟩
  · rw [exec_ready h, bodyOf_of_mem_maskgens hi, hbody]
  · exact hmem ▸ hfill.sameOutside hfits s.eng.mem
  · exact ⟨fun k hk => hdump.shuffle hq hx hk,
      (hdump.lane hq hx (i := 0) (by decide)).trans (mult_toNat h1 hx _),
      (hdump.lane hq hx (i := 1) (by decide)).trans (shcnt_toNat _ q hx _),
      (hdump.lane hq hx (i := 2) (by decide)).trans (cleanIn_toNat h16 q hx _),
      (hdump.lane hq hx (i := 3) (by decide)).trans (cleanRe_toNat h16 q hx _),
      (hdump.lane hq hx (i := 4) (by decide)).trans (predIn_toNat _ q hx _),
      (hdump.lane hq hx (i := 5) (by decide)).trans (predRe_toNat _ q hx _)⟩

end Sys2Proof.Machine

/-! PROOFS. PACK (spec/41_bit_packer.md): the packer stores the words of the bit stream in order, and its accumulator holds
the part of the stream that is not yet stored. -/

namespace Sys2Proof.Machine

/-! ## Cells written in order -/

/-- Canonical memory whose first `k` cells of `c` bytes from `base` hold what `Q` says of each. -/
structure CellsAt (base c : Nat) (Q : Nat → Nat → Prop) (k : Nat) (m : Memory) : Prop where
  wf : m.wf = true
  cell : ∀ i, i < k → Q i (memRead m (base + c * i) c)

theorem CellsAt.none (base c : Nat) (Q : Nat → Nat → Prop) {m : Memory} (h : m.wf = true) : CellsAt base c Q 0 m :=
  ⟨h, nofun⟩

theorem CellsAt.mono {base c k k' : Nat} {Q : Nat → Nat → Prop} {m : Memory} (h : CellsAt base c Q k m) (hk : k' ≤ k) :
    CellsAt base c Q k' m := ⟨h.wf, fun i hi => h.cell i (Nat.lt_of_lt_of_le hi hk)⟩

/-- A write of the next cell does not reach the cells before it, where the region does not meet itself. -/
theorem CellsAt.write {base c k v : Nat} {Q : Nat → Nat → Prop} {m : Memory} (h : CellsAt base c Q k m)
    (hQ : Q k (v % 256 ^ c)) (hfit : c * (k + 1) ≤ addrSpace) :
    CellsAt base c Q (k + 1) (memWrite m (base + c * k) c v) := by
  rw [Nat.mul_succ] at hfit
  refine ⟨memWrite_wf h.wf _ _ _, fun i hi => ?_⟩
  rcases Nat.lt_succ_iff_lt_or_eq.mp hi with hik | rfl
  · have hle : c * (i + 1) ≤ c * k := Nat.mul_le_mul_left c hik
    rw [Nat.mul_succ] at hle
    rw [memRead_congr fun x hx => byteAt_memWrite_ne m v fun y hy => by unfold addrSpace at *; omega]
    exact h.cell i hik
  · rwa [memRead_memWrite h.wf _ _ _ (by omega)]

/-- The outside of the one region a command writes, as the statements say it. -/
theorem Frame.sameOutside {b n : Nat} {m m' : Memory} (h : Frame [⟨b, n⟩] m m') (hw : (⟨b, n⟩ : Span).wraps = false) :
    SameOutside b n m m' := fun a ha hout => h a <| by
  rw [← Bool.not_eq_true, inSpans_iff]
  rintro ⟨r, hr, hra⟩
  rw [List.mem_singleton.mp hr] at hra
  exact hout ((Span.has_of_not_wraps hw ha).mp hra)

/-- A command that may run and writes one region leaves every byte outside it. -/
theorem ready_sameOutside {i : Instr} {s : State} (h : Ready i s) {b n : Nat} (hws : writeSpans i s.op = [⟨b, n⟩]) :
    SameOutside b n s.eng.mem (s.conclude (bodyOf i s.job s.eng)).eng.mem := by
  obtain ⟨-, hw, -, -⟩ := startStop_none h.starts
  have hframe := bodyOf_frame (i := i) (j := s.job) s.eng hw
  rw [show writeSpans i s.job.op = [⟨b, n⟩] from hws] at hframe
  rw [State.conclude_eng]
  exact hframe.sameOutside (ready_not_wraps h _ (hws ▸ List.mem_singleton_self _))

/-! ## The words of a stream -/

/-- The number `y` holds the 64 bits of word `k` of the stream `S`. -/
def HoldsWord (S : Nat → Bool) (k y : Nat) : Prop := ∀ b, b < 64 → y.testBit b = S (64 * k + b)

/-- Stored words of a stream read as the stream (spec/20_memory.md R62). -/
theorem CellsAt.streamBit_eq {S : Nat → Bool} {dst k b : Nat} {m : Memory} (h : CellsAt dst 8 (HoldsWord S) k m)
    (hb : b < 64 * k) : streamBit m dst b = S b := by
  have hword := h.cell (b / 64) (by omega) (b % 64) (Nat.mod_lt _ (by decide))
  rw [Nat.div_add_mod, memRead_testBit] at hword
  rw [← hword, streamBit, show dst + 8 * (b / 64) + b % 64 / 8 = dst + b / 8 by omega, show b % 64 % 8 = b % 8 by omega,
    decide_eq_true (by omega), Bool.true_and]

/-- The next word of a stream is stored. -/
theorem CellsAt.storeWord {S : Nat → Bool} {dst k : Nat} {m : Memory} {v : Word} (h : CellsAt dst 8 (HoldsWord S) k m)
    (hv : HoldsWord S k v.toNat) (hfit : 8 * (k + 1) ≤ addrSpace) :
    CellsAt dst 8 (HoldsWord S) (k + 1) (memWrite m (dst + 8 * k) 8 v.toNat) :=
  h.write (by rwa [Nat.mod_eq_of_lt (show v.toNat < 256 ^ 8 from v.isLt)]) hfit

/-! ## The packer's loop -/

/-- The packer has packed the stream `S` up to bit `pos`: the words before its cursor are stored, and `acc` holds the bits of
the current word that are below `pos` (the invariant of spec/41_bit_packer.md R166). -/
structure PackedTo (dst : Nat) (S : Nat → Bool) (pos : Nat) (e : Engine) : Prop where
  words : CellsAt dst 8 (HoldsWord S) e.bpe.wordIndex e.mem
  acc : ∀ b, b < 64 → e.bpe.acc.getLsbD b = (decide (64 * e.bpe.wordIndex + b < pos) && S (64 * e.bpe.wordIndex + b))

theorem packedTo_start {dst : Nat} {S : Nat → Bool} {e : Engine} (h : e.mem.wf = true) :
    PackedTo dst S 0 { e with idx := 0, bpe := ⟨0, 64, 0⟩ } :=
  ⟨CellsAt.none _ _ _ h, fun _ _ => BitVec.getLsbD_zero.trans (by simp)⟩

theorem PackedTo.storeWord {dst pos rem : Nat} {S : Nat → Bool} {e : Engine} {acc : Word}
    (hwords : CellsAt dst 8 (HoldsWord S) e.bpe.wordIndex e.mem) (hfull : HoldsWord S e.bpe.wordIndex e.bpe.acc.toNat)
    (hfit : 8 * (e.bpe.wordIndex + 1) ≤ addrSpace)
    (hacc : ∀ b, b < 64 →
      acc.getLsbD b = (decide (64 * (e.bpe.wordIndex + 1) + b < pos) && S (64 * (e.bpe.wordIndex + 1) + b))) :
    PackedTo dst S pos (e.storeWord dst acc rem) := ⟨hwords.storeWord hfull hfit, hacc⟩

/-- A value of `w` bits, as the bits of the stream from its place on. -/
theorem testBit_of_lt_two_pow {w v pos : Nat} {S : Nat → Bool} (hv : v < 2 ^ w)
    (hS : ∀ k, k < w → v.testBit k = S (pos + k)) (k : Nat) : v.testBit k = (decide (k < w) && S (pos + k)) := by
  by_cases hk : k < w
  · simp [hk, hS k hk]
  · simp [hk, Nat.testBit_lt_two_pow (hv.trans_le (Nat.pow_le_pow_right two_pos (Nat.not_lt.mp hk)))]

/-- Packing the next `w` bits of the stream: they join `acc` at the cursor, a full word is stored, and the bits past it are
the low bits of the next word (spec/41_bit_packer.md R162, R163). -/
theorem packValue_packedTo {w v dst pos : Nat} {S : Nat → Bool} {e : Engine} (hat : PackAt pos e)
    (h : PackedTo dst S pos e) (hv : v < 2 ^ w) (hw : w ≤ 16) (hS : ∀ k, k < w → v.testBit k = S (pos + k))
    (hfit : pos + w ≤ 8 * addrSpace) : PackedTo dst S (pos + w) (packValue w dst v e) := by
  obtain ⟨hr0, hr64, hpos⟩ := hat
  have hbits := testBit_of_lt_two_pow hv hS
  have hacc (b : Nat) (hb : b < 64) : (e.bpe.acc ||| BitVec.ofNat 64 (v <<< (64 - e.bpe.rem))).getLsbD b =
      (decide (64 * e.bpe.wordIndex + b < pos + w) && S (64 * e.bpe.wordIndex + b)) := by
    rw [BitVec.getLsbD_or, h.acc b hb, BitVec.getLsbD_ofNat, Nat.testBit_shiftLeft, hbits]
    by_cases hlow : b < 64 - e.bpe.rem
    · simp [show 64 * e.bpe.wordIndex + b < pos by omega, show 64 * e.bpe.wordIndex + b < pos + w by omega,
        show ¬ 64 - e.bpe.rem ≤ b by omega]
    · simp [hb, show ¬ 64 * e.bpe.wordIndex + b < pos by omega, show 64 - e.bpe.rem ≤ b by omega,
        show pos + (b - (64 - e.bpe.rem)) = 64 * e.bpe.wordIndex + b by omega,
        show (b - (64 - e.bpe.rem) < w ↔ 64 * e.bpe.wordIndex + b < pos + w) by omega]
  have hfull (hr : e.bpe.rem ≤ w) :
      HoldsWord S e.bpe.wordIndex (e.bpe.acc ||| BitVec.ofNat 64 (v <<< (64 - e.bpe.rem))).toNat := fun b hb => by
    rw [BitVec.testBit_toNat, hacc b hb, decide_eq_true (by omega), Bool.true_and]
  unfold packValue
  simp only
  split
  · exact ⟨h.words, hacc⟩
  · split
    · exact PackedTo.storeWord (e := { e with bpe := _ }) h.words (hfull (by omega)) (by simp only; omega) fun b hb => by
        rw [decide_eq_false (by simp only; omega), Bool.false_and]
        exact BitVec.getLsbD_zero
    · exact PackedTo.storeWord (e := { e with bpe := _ }) h.words (hfull (by omega)) (by simp only; omega) fun b hb => by
        rw [BitVec.getLsbD_ofNat, Nat.testBit_shiftRight, hbits]
        simp [hb, show pos + (e.bpe.rem + b) = 64 * (e.bpe.wordIndex + 1) + b by omega,
          show (e.bpe.rem + b < w ↔ 64 * (e.bpe.wordIndex + 1) + b < pos + w) by omega]

/-- The packer's loop goes on over entries that are narrow enough, and what each value packed keeps holds where it ends. -/
theorem packEntries_ok {j : Job} {e : Engine} (P : Nat → Engine → Prop) (h0 : P 0 e) {n : Nat}
    (hs : ∀ i f, i < n → P i f → columnAt f.mem j.src i < 2 ^ j.w ∧
      P (i + 1) { packValue j.w j.dst (columnAt f.mem j.src i) f with idx := i + 1 }) :
    ∃ f, packEntries j n e = .ok f ∧ P n f := by
  induction n with
  | zero => exact ⟨e, rfl, h0⟩
  | succ n ih =>
    obtain ⟨f, hf, hP⟩ := ih fun i f hi => hs i f (Nat.lt_succ_of_lt hi)
    obtain ⟨hv, hnext⟩ := hs n f (Nat.lt_succ_self n) hP
    refine ⟨_, ?_, hnext⟩
    simp only [packEntries, hf, packEntry]
    exact if_neg (Nat.not_le.mpr hv)

/-- At an entry that is too wide the packer's loop stops for good (spec/41_bit_packer.md R167). -/
theorem packEntries_stop {j : Job} {e f : Engine} {k n : Nat} (hf : packEntries j k e = .ok f)
    (hv : 2 ^ j.w ≤ columnAt f.mem j.src k) (hk : k < n) : packEntries j n e = .error (k, f) := by
  induction n with
  | zero => exact absurd hk (Nat.not_lt_zero k)
  | succ n ih =>
    rcases Nat.lt_succ_iff_lt_or_eq.mp hk with hk | rfl
    · simp only [packEntries, ih hk]
    · simp only [packEntries, hf, packEntry]
      exact if_pos hv

/-! ## The end of the input -/

theorem packFlush_cells {dst pos : Nat} {S : Nat → Bool} {e : Engine} (hat : PackAt pos e) (h : PackedTo dst S pos e)
    (hS : ∀ b, pos ≤ b → S b = false) (hfit : 8 * ceilDiv pos 64 ≤ addrSpace) :
    CellsAt dst 8 (HoldsWord S) (ceilDiv pos 64) (packFlush dst e).mem := by
  rw [← packFlush_wordIndex hat dst] at hfit ⊢
  unfold packFlush at hfit ⊢
  split
  · next hr =>
    rw [if_pos hr] at hfit
    refine h.words.storeWord (fun b hb => ?_) hfit
    rw [BitVec.testBit_toNat, h.acc b hb]
    by_cases hlt : 64 * e.bpe.wordIndex + b < pos
    · simp [hlt]
    · simp [hlt, hS _ (Nat.not_lt.mp hlt)]
  · exact h.words

/-- The padding continues the stream, which ends before it, by zero words (spec/41_bit_packer.md R165). -/
theorem packPadding_cells {j : Job} {l : Nat} {S : Nat → Bool} {m : Memory}
    (h : CellsAt j.dst 8 (HoldsWord S) (liveWords j.w j.n) m) (hS : ∀ b, j.w * j.n ≤ b → S b = false)
    (hfit : packedSize j.w j.n l ≤ addrSpace) :
    CellsAt j.dst 8 (HoldsWord S) (packedSize j.w j.n l / 8) (packPadding j l m) := by
  have hlive : j.w * j.n ≤ liveWords j.w j.n * 64 := le_ceilDiv_mul _ (by decide)
  have hround := le_ceilDiv_mul (liveWords j.w j.n) (l := 4) (by decide)
  have htw : packedSize j.w j.n l / 8 = liveWords j.w j.n +
      (4 * ceilDiv (liveWords j.w j.n) 4 + vpad l / 8 - liveWords j.w j.n) := by
    rw [packedSize, vpad]
    omega
  rw [htw, packPadding]
  refine upto_inv (fun k => CellsAt j.dst 8 (HoldsWord S) (liveWords j.w j.n + k)) h fun k x hk hx => ?_
  refine hx.write (fun b hb => ?_) (by omega)
  rw [Nat.zero_mod, Nat.zero_testBit, hS _ (by omega)]

/-! ## PACK -/

/-- The bit stream of a column (spec/41_bit_packer.md R166). -/
def packedBit (j : Job) (m : Memory) (b : Nat) : Bool :=
  decide (b < j.w * j.n) && (columnAt m j.src (b / j.w)).testBit (b % j.w)

theorem packedBit_field (j : Job) (m : Memory) {x k : Nat} (hx : x < j.n) (hk : k < j.w) :
    packedBit j m (j.w * x + k) = (columnAt m j.src x).testBit k := by
  have hle : j.w * (x + 1) ≤ j.w * j.n := Nat.mul_le_mul_left _ hx
  rw [Nat.mul_succ] at hle
  rw [packedBit, decide_eq_true (by omega), Bool.true_and, Nat.mul_add_div (by omega), Nat.mul_add_mod,
    Nat.div_eq_of_lt hk, Nat.mod_eq_of_lt hk, Nat.add_zero]

theorem packedBit_past (j : Job) (m : Memory) {b : Nat} (hb : j.w * j.n ≤ b) : packedBit j m b = false := by
  rw [packedBit, decide_eq_false (Nat.not_lt.mpr hb), Bool.false_and]

theorem laneCount_of_mem_packs {i : Instr} (hi : i ∈ packs) : laneCount i = 4 ∨ laneCount i = 8 := by
  revert i
  decide

theorem op_of_mem_packs {i : Instr} (hi : i ∈ packs) : i.op = .pack := by
  revert i
  decide

theorem bodyOf_of_mem_packs {i : Instr} (hi : i ∈ packs) : bodyOf i = packBody i := by
  rcases List.mem_pair.mp hi with rfl | rfl <;> rfl

theorem writeSpans_of_mem_packs {i : Instr} (hi : i ∈ packs) (o : Latches) :
    writeSpans i o = [⟨o.dst.toNat, packedSize o.w.toNat o.n.toNat (laneCount i)⟩] := by
  rcases List.mem_pair.mp hi with rfl | rfl <;> rfl

/-- A PACK that may run does not overwrite its column. -/
theorem ready_columnKept {i : Instr} {s : State} (hi : i ∈ packs) (h : Ready i s) {m : Memory}
    (hm : Frame (writeSpans i s.op) s.eng.mem m) {x : Nat} (hx : x < s.op.n.toNat) :
    columnAt m s.op.src.toNat x = columnAt s.eng.mem s.op.src.toNat x := memRead_congr fun k hk => by
  rw [Nat.add_assoc]
  exact (readSpans_cover_column (j := s.job) (op_of_mem_packs hi)).byteAt_eq (fun a ha hr => hm a (ready_apart h ha hr))
    (by simp only [Job.n, State.job]; omega)

/-- The packed buffer of a PACK that may run does not meet itself. -/
theorem ready_packedSize_le {i : Instr} {s : State} (hi : i ∈ packs) (h : Ready i s) :
    packedSize s.op.w.toNat s.op.n.toNat (laneCount i) ≤ addrSpace := by
  have hpos : 0 < packedSize s.op.w.toNat s.op.n.toNat (laneCount i) := by
    have := laneCount_of_mem_packs hi
    rw [packedSize, vpad]
    omega
  exact (Nat.le_add_left _ _).trans
    (ready_fits h (r := ⟨_, _⟩) (by rw [writeSpans_of_mem_packs hi]; exact List.mem_singleton_self _) hpos)

/-- The live bits are in the packed buffer. -/
theorem le_packedSize (w n l : Nat) : w * n ≤ 8 * packedSize w n l := by
  have hlive : w * n ≤ liveWords w n * 64 := le_ceilDiv_mul _ (by decide)
  have hround := le_ceilDiv_mul (liveWords w n) (l := 4) (by decide)
  rw [packedSize]
  omega

/-- A packer that has packed the first `k` entries of the column in `m₀`, writing in the regions only. -/
structure PackRun (ws : List Span) (j : Job) (m₀ : Memory) (k : Nat) (f : Engine) : Prop where
  cursor : PackAt (j.w * k) f
  frame : Frame ws m₀ f.mem
  packed : PackedTo j.dst (packedBit j m₀) (j.w * k) f

/-- The loop of PACK runs over the entries before the first that is too wide. -/
theorem ready_packEntries {i : Instr} {s : State} (hi : i ∈ packs) (h : Ready i s) {k : Nat} (hk : k ≤ s.op.n.toNat)
    (hv : ∀ x, x < k → columnAt s.eng.mem s.op.src.toNat x < 2 ^ s.op.w.toNat) :
    ∃ f, packEntries s.job k { s.eng with idx := 0, bpe := ⟨0, 64, 0⟩ } = .ok f ∧
      PackRun (writeSpans i s.op) s.job s.eng.mem k f := by
  obtain ⟨-, hw, -, -⟩ := startStop_none h.starts
  have hfit := ready_packedSize_le hi h
  have hlive := le_packedSize s.op.w.toNat s.op.n.toNat (laneCount i)
  have hstart : PackRun (writeSpans i s.op) s.job s.eng.mem 0 { s.eng with idx := 0, bpe := ⟨0, 64, 0⟩ } :=
    ⟨⟨Nat.zero_lt_succ _, le_rfl, rfl⟩, Frame.refl _ _, packedTo_start h.canonical⟩
  refine packEntries_ok (PackRun (writeSpans i s.op) s.job s.eng.mem) hstart fun x f hx ⟨hat, hframe, hpacked⟩ => ?_
  have hxn : x < s.op.n.toNat := by omega
  have hle : s.op.w.toNat * (x + 1) ≤ s.op.w.toNat * s.op.n.toNat := Nat.mul_le_mul_left _ hxn
  rw [Nat.mul_succ] at hle
  have hcol : columnAt f.mem s.job.src x = columnAt s.eng.mem s.op.src.toNat x := ready_columnKept hi h hframe hxn
  rw [hcol]
  refine ⟨hv x hx, packValue_packAt hw _ _ _ hat, packValue_frame _ hat hframe fun y hy => ?_, ?_⟩
  · rw [writeSpans_of_mem_packs hi]
    refine (covers_singleton _ _).part (Nat.le_add_right _ _) ?_
    have := word_in_packedSize (w := s.op.w.toNat) (n := s.op.n.toNat) (l := laneCount i) (k := y)
      (by simp only [Job.w, State.job] at hy; omega)
    simp only [Job.dst, State.job]
    omega
  · have hp := packValue_packedTo hat hpacked (hv x hx) hw
      (fun b hb => (packedBit_field s.job s.eng.mem hxn hb).symm) (by simp only [Job.w, State.job]; omega)
    exact ⟨hp.words, hp.acc⟩

/-- A PACK of narrow entries ends normally and leaves the words of the stream. -/
theorem ready_packBody {i : Instr} {s : State} (hi : i ∈ packs) (h : Ready i s)
    (hv : ∀ x, x < s.op.n.toNat → columnAt s.eng.mem s.op.src.toNat x < 2 ^ s.op.w.toNat) :
    ∃ e, bodyOf i s.job s.eng = .done e 0 ∧
      CellsAt s.op.dst.toNat 8 (HoldsWord (packedBit s.job s.eng.mem))
        (packedSize s.op.w.toNat s.op.n.toNat (laneCount i) / 8) e.mem := by
  have hfit := ready_packedSize_le hi h
  obtain ⟨f, hf, hat, -, hpacked⟩ := ready_packEntries hi h le_rfl hv
  have hpast (b : Nat) (hb : s.job.w * s.job.n ≤ b) := packedBit_past s.job s.eng.mem hb
  have hround := le_ceilDiv_mul (liveWords s.op.w.toNat s.op.n.toNat) (l := 4) (by decide)
  have hflush := packFlush_cells hat hpacked hpast (by
    rw [packedSize] at hfit
    rw [show ceilDiv (s.job.w * s.op.n.toNat) 64 = liveWords s.op.w.toNat s.op.n.toNat from rfl]
    omega)
  refine ⟨{ packFlush s.job.dst f with mem := packPadding s.job (laneCount i) (packFlush s.job.dst f).mem }, ?_,
    packPadding_cells hflush hpast hfit⟩
  rw [bodyOf_of_mem_packs hi, packBody, show s.job.n = s.op.n.toNat from rfl, hf]

/-- Settles O27: the loop packs all entries, the flush and the padding complete the words of the stream, and these words read
as the stream. -/
theorem packWritesTheBitStream : Obligations.PackWritesTheBitStream := by
  intro i hi s h hv
  obtain ⟨e, hbody, hcells⟩ := ready_packBody hi h hv
  have hsize : 8 * packedSize s.op.w.toNat s.op.n.toNat (laneCount i) =
      64 * (packedSize s.op.w.toNat s.op.n.toNat (laneCount i) / 8) := by
    have := laneCount_of_mem_packs hi
    rw [packedSize, vpad]
    omega
  have hlive := le_packedSize s.op.w.toNat s.op.n.toNat (laneCount i)
  have hout := ready_sameOutside h (writeSpans_of_mem_packs hi s.op)
  rw [hbody] at hout
  refine ⟨s.conclude (.done e 0), by rw [exec_ready h, hbody], endedWith_conclude_done s e 0, fun x k hx hk => ?_,
    fun b hb hlt => ?_, hout⟩
  · have hle : s.op.w.toNat * (x + 1) ≤ s.op.w.toNat * s.op.n.toNat := Nat.mul_le_mul_left _ hx
    rw [Nat.mul_succ] at hle
    exact (hcells.streamBit_eq (by omega)).trans (packedBit_field s.job s.eng.mem hx hk)
  · exact (hcells.streamBit_eq (by omega)).trans (packedBit_past s.job s.eng.mem hb)

/-- Settles O28: the loop runs up to the entry and stops there. -/
theorem packStopsAtTheFirstWideEntry : Obligations.PackStopsAtTheFirstWideEntry := by
  intro i hi s k h hk hwide hv
  obtain ⟨f, hf, -, hframe, -⟩ := ready_packEntries hi h hk.le hv
  have hstop : packEntries s.job s.job.n { s.eng with idx := 0, bpe := ⟨0, 64, 0⟩ } = .error (k, f) :=
    packEntries_stop hf (hwide.trans_eq (ready_columnKept hi h hframe hk).symm) hk
  have hout := ready_sameOutside h (writeSpans_of_mem_packs hi s.op)
  refine ⟨_, exec_ready h, ?_, hout⟩
  rw [bodyOf_of_mem_packs hi, packBody, hstop]
  exact ⟨rfl, rfl, rfl, rfl, State.conclude_operandsKept s _⟩

end Sys2Proof.Machine

/-! PROOFS. Every DECODE strategy that may run writes the fields of its buffer (spec/42_scalar_codec.md R183,
spec/43_vector_unpacker.md R205), and so reads back the column of PACK (spec/41_bit_packer.md R170). -/

namespace Sys2Proof.Machine

/-! ## The loaders -/

/-- A loader that brings the live bits of the stream in `m₀` into the window: `C` says what its block cache holds before
lane-group `g`. -/
structure LoadsStream (j : Job) (l : Nat) (load : LoadWindow) (m₀ : Memory) (C : Nat → Vbu → Prop) : Prop where
  start : ∀ v, C 0 v
  registers : ∀ g v raw r out off, C g v → C g { v with raw := raw, r := r, outputIndex := out, byteOff := off }
  cache : ∀ g m v, (∀ b, b < j.w * j.n → streamBit m j.src b = streamBit m₀ j.src b) → C g v → C (g + 1) (load g m v)
  window : ∀ g m v, (∀ b, b < j.w * j.n → streamBit m j.src b = streamBit m₀ j.src b) → C g v →
    ∀ k, k < 32 * l → 8 * byteOff j.w l g + k < j.w * j.n →
      windowBit (load g m v).window k = streamBit m₀ j.src (8 * byteOff j.w l g + k)

theorem loadUnaligned_loadsStream (j : Job) (l : Nat) (m₀ : Memory) :
    LoadsStream j l (loadUnaligned j l) m₀ fun _ _ => True where
  start _ := trivial
  registers _ _ _ _ _ _ _ := trivial
  cache _ _ _ _ _ := trivial
  window g m v hs _ k hk hn := by
    rw [loadUnaligned, windowBit_memBytes _ _ (by omega), streamBit_add, hs _ hn]

/-- The cached blocks hold the live bits of the stream from block `blkNo` on. -/
def BlocksHold (j : Job) (m₀ : Memory) (v : Vbu) : Prop :=
  ∀ k, k < 256 → 128 * v.blkNo + k < j.w * j.n →
    windowBit (v.blkLo ++ v.blkHi) k = streamBit m₀ j.src (128 * v.blkNo + k)

/-- The blocks of a lane-group are read now or are the ones kept (spec/43_vector_unpacker.md R212). -/
theorem loadAligned_blocks {j : Job} {m₀ m : Memory} {g : Nat} {v : Vbu}
    (hs : ∀ b, b < j.w * j.n → streamBit m j.src b = streamBit m₀ j.src b) (hc : g ≠ 0 → BlocksHold j m₀ v) :
    BlocksHold j m₀ (loadAligned j g m v) ∧ (loadAligned j g m v).blkNo = byteOff j.w 4 g / 16 := by
  by_cases hr : g = 0 ∨ byteOff j.w 4 g / 16 ≠ v.blkNo
  · simp only [loadAligned, if_pos hr]
    refine ⟨fun k hk hn => ?_, trivial⟩
    simp only at hn ⊢
    rw [memBytes_append, windowBit_memBytes _ _ hk, streamBit_add, ← hs _ (by omega)]
    congr 1
    omega
  · obtain ⟨h0, hno⟩ := not_or.mp hr
    simp only [loadAligned, if_neg hr]
    exact ⟨hc h0, (not_not.mp hno).symm⟩

theorem loadAligned_loadsStream (j : Job) (m₀ : Memory) :
    LoadsStream j 4 (loadAligned j) m₀ fun g v => g ≠ 0 → BlocksHold j m₀ v where
  start _ h := absurd rfl h
  registers _ _ _ _ _ _ h := h
  cache _ _ _ hs hc _ := (loadAligned_blocks hs hc).1
  window g m v hs hc k hk hn := by
    obtain ⟨hblk, hno⟩ := loadAligned_blocks hs hc
    have hbit := hblk (8 * (byteOff j.w 4 g % 16) + k) (by omega) (by rw [hno]; omega)
    rw [hno, show 128 * (byteOff j.w 4 g / 16) + (8 * (byteOff j.w 4 g % 16) + k) = 8 * byteOff j.w 4 g + k by omega] at hbit
    exact (windowBit_take_drop _ hk).trans hbit

/-! ## DECODE on the pipeline -/

/-- A cell of the decoded array holds the field, past the last value anything (spec/20_memory.md R65). -/
def HoldsField (j : Job) (m₀ : Memory) (x y : Nat) : Prop := x < j.n → y = j.field m₀ x

/-- A pipeline that has decoded the lane-groups before `g`, writing in the regions only. -/
structure DecodedTo (ws : List Span) (j : Job) (l : Nat) (m₀ : Memory) (C : Nat → Vbu → Prop) (g : Nat) (e : Engine) :
    Prop where
  mfl : e.scan.mfl = maskSets j.w l none
  cache : C g e.scan.vbu
  frame : Frame ws m₀ e.mem
  entries : CellsAt j.dst 4 (HoldsField j m₀) (g * l) e.mem

/-- The lane of a value below `N` is its field. -/
theorem realignGroup_field {j : Job} {l g x : Nat} {load : LoadWindow} {m₀ m : Memory} {C : Nat → Vbu → Prop}
    {realign : Realign} {key : Option (BitVec 16)} {sc : Scanner} (hload : LoadsStream j l load m₀ C)
    (hr : ExtractsField j.w realign) (hlane : LegalLane j.w l (g % 2) x) (hx : g * l + x < j.n)
    (hs : ∀ b, b < j.w * j.n → streamBit m j.src b = streamBit m₀ j.src b) (hC : C g sc.vbu)
    (hm : sc.mfl = maskSets j.w l key) :
    ((realignGroup l load realign g m sc).vbu.r.getD x 0).toNat = j.field m₀ (g * l + x) := by
  have hle : j.w * (g * l + x + 1) ≤ j.w * j.n := Nat.mul_le_mul_left _ hx
  rw [r_realignGroup hlane hr hm]
  refine (windowField_congr hlane fun k hk hn => ?_).trans (windowField_loadUnaligned hlane m₀ sc.vbu)
  rw [hload.window g m sc.vbu hs hC k hk (by omega),
    (loadUnaligned_loadsStream j l m₀).window g m₀ sc.vbu (fun _ _ => rfl) trivial k hk (by omega)]

theorem storeGroup_cells {j : Job} {l g : Nat} {r : List Lane} {m₀ m : Memory}
    (h : CellsAt j.dst 4 (HoldsField j m₀) (g * l) m) (hl : l ≤ 8) (hg : g * l < j.n)
    (hr : ∀ x, x < l → g * l + x < j.n → (r.getD x 0).toNat = j.field m₀ (g * l + x)) :
    CellsAt j.dst 4 (HoldsField j m₀) ((g + 1) * l) (storeGroup j l g r m) := by
  have hn : j.n < 2 ^ 32 := j.op.n.isLt
  rw [Nat.succ_mul]
  refine upto_inv (fun x => CellsAt j.dst 4 (HoldsField j m₀) (g * l + x)) h fun x y hx hy => ?_
  refine hy.write (fun hlt => ?_) (by unfold addrSpace; omega)
  rw [if_pos hlt, Nat.mod_eq_of_lt (show (r.getD x 0).toNat < 256 ^ 4 from (r.getD x 0).isLt), hr x hx hlt]

theorem decodeVectorBody_cells {ws : List Span} {j : Job} {l : Nat} {load : Job → LoadWindow} {realign : Nat → Realign}
    {C : Nat → Vbu → Prop} {e : Engine} (hw1 : 1 ≤ j.w) (hw : j.w ≤ 16) (hl : l = 4 ∨ l = 8)
    (hload : LoadsStream j l (load j) e.mem C) (hr : ExtractsField j.w (realign j.w))
    (hc : Covers ws j.dst (4 * l * groups j.n l)) (hs : StreamKept ws j e.mem) (hm : e.mem.wf = true) :
    ∃ f, decodeVectorBody l load realign j e = .done f 0 ∧ CellsAt j.dst 4 (HoldsField j e.mem) j.n f.mem := by
  have h0 : DecodedTo ws j l e.mem C 0 { e with idx := 0, scan := startPipeline j.w l none e.scan } :=
    ⟨rfl, hload.start _, Frame.refl _ _, by rw [Nat.zero_mul]; exact CellsAt.none _ _ _ hm⟩
  have hend := upto_inv (DecodedTo ws j l e.mem C) h0 (n := groups j.n l)
    (f := decodeGroup j l (load j) (realign j.w)) fun g f hg ⟨hmfl, hC, hframe, hcells⟩ => by
      have hlane (x : Nat) (hx : x < l) : LegalLane j.w l (g % 2) x := ⟨hw1, hw, hl, Nat.mod_lt g two_pos, hx⟩
      refine ⟨hmfl, ?_, decodeGroup_frame _ _ hframe hg hc, ?_⟩
      · exact hload.registers _ (load j g f.mem f.scan.vbu) _ _ _ _ (hload.cache g f.mem _ (hs _ hframe) hC)
      · exact storeGroup_cells hcells (by omega) ((lt_ceilDiv_iff (by omega)).mp hg) fun x hx hlt =>
          realignGroup_field hload hr (hlane x hx) hlt (hs _ hframe) hC hmfl
  exact ⟨_, rfl, hend.entries.mono (le_ceilDiv_mul _ (by omega))⟩

/-! ## DECODE.S -/

theorem decodeScalarBody_cells {ws : List Span} {j : Job} {e : Engine} (hw1 : 1 ≤ j.w) (hw : j.w ≤ 16)
    (hc : Covers ws j.dst (4 * j.n)) (hs : StreamKept ws j e.mem) (hm : e.mem.wf = true) :
    ∃ f, decodeScalarBody j e = .done f 0 ∧ CellsAt j.dst 4 (HoldsField j e.mem) j.n f.mem := by
  obtain ⟨-, c, hcur⟩ := cursor_eq_loop (emitEntry_emitsOver hc hs) hw1 hw (Frame.refl ws e.mem)
  refine ⟨_, rfl, ?_⟩
  rw [hcur]
  refine upto_inv (f := fieldPass (j.field e.mem) (emitEntry j)) (a := { e with idx := 0 })
    (fun i f => CellsAt j.dst 4 (HoldsField j e.mem) i f.mem) (CellsAt.none _ _ _ hm)
    fun i f hi hf => hf.write (fun _ => ?_) ?_
  · have hfield : j.field e.mem i < 2 ^ 16 := (bitsOf_lt _ _).trans_le (Nat.pow_le_pow_right two_pos hw)
    rw [BitVec.toNat_ofNat, Nat.mod_eq_of_lt hfield, Nat.mod_eq_of_lt (hfield.trans (by decide))]
  · have hn : j.n < 2 ^ 32 := j.op.n.isLt
    unfold addrSpace
    omega

/-! ## Every DECODE -/

/-- Every DECODE that does not overwrite its stream ends normally and leaves the fields in the entries. -/
theorem bodyOf_decode_cells {d : Instr} {j : Job} {e : Engine} (hd : d ∈ decodes) (hw1 : 1 ≤ j.w) (hw : j.w ≤ 16)
    (hm : e.mem.wf = true) (hs : StreamKept (writeSpans d j.op) j e.mem) :
    ∃ f, bodyOf d j e = .done f 0 ∧ CellsAt j.dst 4 (HoldsField j e.mem) j.n f.mem := by
  have unaligned {l : Nat} {realign : Nat → Realign} (hl : l = 4 ∨ l = 8) (hr : ExtractsField j.w (realign j.w))
      (hs : StreamKept [⟨j.dst, 4 * l * groups j.n l⟩] j e.mem) :=
    decodeVectorBody_cells (load := fun j => loadUnaligned j l) hw1 hw hl (loadUnaligned_loadsStream j l e.mem) hr
      (covers_singleton _ _) hs hm
  cases d
  case decodeV128U =>
    rw [bodyOf_decodeV128U, bodyOf]
    exact unaligned (.inl rfl) (realignMul_extractsField _) hs
  all_goals unfold bodyOf
  case decodeS => exact decodeScalarBody_cells hw1 hw (covers_singleton _ _) hs hm
  case decodeV128 => exact unaligned (.inl rfl) (realignMul_extractsField _) hs
  case decodeV128M => exact unaligned (.inl rfl) (realignMulMask_extractsField _) hs
  case decodeV128A =>
    exact decodeVectorBody_cells hw1 hw (.inl rfl) (loadAligned_loadsStream j _) (realignMul_extractsField _)
      (covers_singleton _ _) hs hm
  case decodeV256 => exact unaligned (.inr rfl) (realignMul_extractsField _) hs
  case decodeV256V => exact unaligned (.inr rfl) (realignShift_extractsField _) hs
  all_goals exact absurd hd (by decide)

theorem op_of_mem_decodes {i : Instr} (hi : i ∈ decodes) : i.op = .decode := by
  revert i
  decide

/-- A DECODE that may run writes the fields of its buffer. -/
theorem exec_decode_entries {d : Instr} {s : State} (hd : d ∈ decodes) (h : Ready d s) :
    ∃ t, exec d s = .next t ∧ EndedWith s t 0 ∧ ∀ x, x < s.op.n.toNat →
      entryAt t.eng.mem s.op.dst.toNat x = fieldAt s.eng.mem s.op.src.toNat s.op.w.toNat x := by
  obtain ⟨hw1, hw, -, -⟩ := startStop_none h.starts
  have hreads : ReadsStream d s.job := .inl (op_of_mem_decodes hd)
  obtain ⟨f, hbody, hcells⟩ := bodyOf_decode_cells (j := s.job) hd hw1 hw h.canonical (ready_streamKept h hreads _)
  exact ⟨s.conclude (.done f 0), by rw [exec_ready h, hbody], endedWith_conclude_done s f 0, fun x hx => hcells.cell x hx hx⟩

/-- A field of the packed stream is the entry, which has no bit from `w` on. -/
theorem fieldAt_eq_of_bits {m : Memory} {a w x v : Nat} (hv : v < 2 ^ w)
    (hbits : ∀ k, k < w → streamBit m a (w * x + k) = v.testBit k) : fieldAt m a w x = v :=
  Nat.eq_of_testBit_eq fun k => by
    rw [fieldAt_testBit, ← testBit_of_lt_two_pow (S := streamBit m a) hv fun k hk => (hbits k hk).symm]

/-- Settles O32: DECODE writes the fields of the buffer, and the fields PACK wrote are the entries of the column. -/
theorem decodeOfPackIsTheColumn : Obligations.DecodeOfPackIsTheColumn := by
  intro p hp d hd s t s' h hv ht h' hmem hw hn hsrc
  obtain ⟨u, hu, -, hbits, -⟩ := packWritesTheBitStream p hp s h hv
  obtain rfl : u = t := Host.Outcome.next.inj (hu.symm.trans ht)
  obtain ⟨t', ht', -, hentry⟩ := exec_decode_entries hd h'
  refine ⟨t', ht', fun x hx => ?_⟩
  rw [hentry x (hn ▸ hx), hmem, hw, hsrc]
  exact fieldAt_eq_of_bits (hv x hx) fun k hk => hbits x k hx hk

end Sys2Proof.Machine

/-! PROOFS. A DECODE that may run writes the fields of its buffer and nothing outside its one write region
(spec/20_memory.md R76); for DECODE.S the region is exactly the `N` entries (spec/42_scalar_codec.md R183). -/

namespace Sys2Proof.Machine

/-- The entries and the frame of a DECODE belong to the one state its execution leaves. -/
theorem exec_decode_fields {d : Instr} {s : State} (hd : d ∈ decodes) (h : Ready d s) {len : Nat}
    (hws : writeSpans d s.op = [⟨s.op.dst.toNat, len⟩]) :
    ∃ t, exec d s = .next t ∧ EndedWith s t 0 ∧
      (∀ x, x < s.op.n.toNat →
        entryAt t.eng.mem s.op.dst.toNat x = fieldAt s.eng.mem s.op.src.toNat s.op.w.toNat x) ∧
      SameOutside s.op.dst.toNat len s.eng.mem t.eng.mem := by
  obtain ⟨t, ht, hend, hentry⟩ := exec_decode_entries hd h
  obtain rfl : s.conclude (bodyOf d s.job s.eng) = t := Host.Outcome.next.inj ((exec_ready h).symm.trans ht)
  exact ⟨_, ht, hend, hentry, ready_sameOutside h hws⟩

/-- Settles O29: the write footprint of DECODE.S is the `4·N` bytes at `DST`. -/
theorem decodeScalarWritesTheFields : Obligations.DecodeScalarWritesTheFields :=
  fun _ h => exec_decode_fields (by decide) h rfl

end Sys2Proof.Machine

/-! PROOFS. The realignments of the vector unpacker are one function (spec/43_vector_unpacker.md R203, R204, R214), every
vector DECODE writes its fields up to the end of the last lane-group (R205), and all DECODE strategies agree (R215). -/

namespace Sys2Proof.Machine

/-! ## The realignments -/

/-- Two realignments that extract the field are equal on every legal lane. -/
theorem ExtractsField.eq {w l q x : Nat} {f g : Realign} (hf : ExtractsField w f) (hg : ExtractsField w g)
    (h : LegalLane w l q x) (key : Option (BitVec 16)) (raw : Lane) :
    f (maskSet w l q key) x raw = g (maskSet w l q key) x raw :=
  BitVec.eq_of_toNat_eq ((hf l q x key raw h).trans (hg l q x key raw h).symm)

/-- Settles O25: multiply and shift extracts the field, and so does each of the other two realignments. -/
theorem everyRealignmentExtractsTheField : Obligations.EveryRealignmentExtractsTheField := by
  intro w l q x key raw hw1 hw hl hq hx
  have hlane : LegalLane w l q x := ⟨hw1, hw, hl, hq, hx⟩
  have hmul := realignMul_extractsField w
  exact ⟨hmul l q x key raw hlane, (realignMulMask_extractsField w).eq hmul hlane key raw,
    (realignShift_extractsField w).eq hmul hlane key raw⟩

/-! ## The DECODE strategies -/

/-- The one write region of a vector DECODE is whole lane-groups of entries (spec/20_memory.md R76). -/
theorem writeSpans_vectorDecode {i : Instr} (hi : i ∈ vectorDecodes) (o : Latches) :
    writeSpans i o = [⟨o.dst.toNat, 4 * laneCount i * ceilDiv o.n.toNat (laneCount i)⟩] := by
  cases i
  case decodeV128 | decodeV256 | decodeV128M | decodeV128A | decodeV128U | decodeV256V => rfl
  all_goals exact absurd hi (by decide)

/-- Settles O30: a vector DECODE is a DECODE whose write footprint is the entries of its lane-groups. -/
theorem decodeVectorWritesTheFields : Obligations.DecodeVectorWritesTheFields :=
  fun _ hi s h => exec_decode_fields (List.mem_cons_of_mem _ hi) h (writeSpans_vectorDecode hi s.op)

/-- Settles O31: the entries of either strategy are the fields of the one buffer. -/
theorem decodeStrategiesAgree : Obligations.DecodeStrategiesAgree := by
  intro i hi i' hi' s h h'
  obtain ⟨t, ht, -, hentry⟩ := exec_decode_entries hi h
  obtain ⟨t', ht', -, hentry'⟩ := exec_decode_entries hi' h'
  exact ⟨t, t', ht, ht', fun x hx => (hentry x hx).trans (hentry' x hx).symm⟩

end Sys2Proof.Machine

/-! PROOFS. The two compare flavours of the vector scanner (spec/44_vector_scanner.md R231, R232) test the field of a lane
against the key. -/

namespace Sys2Proof.Machine

/-- The realigned compare tests the field of the lane (R231). -/
theorem realignMul_eq_predRe_iff {w l q x : Nat} (h : LegalLane w l q x) (key : BitVec 16) (raw : Lane) :
    realignMul w (maskSet w l q (some key)) x raw = (maskSet w l q (some key)).predRe.getD x 0 ↔
      rawField w l q x raw = key.toNat := by
  rw [← BitVec.toNat_inj, realignMul_extractsField w l q x _ raw h, predRe_toNat w q h.x_lt]

/-- The in-place compare tests the same field: the shift that both sides keep cancels (R232). -/
theorem and_cleanIn_eq_predIn_iff {w l q x : Nat} (h : LegalLane w l q x) (key : BitVec 16) (raw : Lane) :
    raw &&& (maskSet w l q (some key)).cleanIn.getD x 0 = (maskSet w l q (some key)).predIn.getD x 0 ↔
      rawField w l q x raw = key.toNat := by
  rw [← BitVec.toNat_inj, and_cleanIn_toNat h, predIn_toNat w q h.x_lt, Nat.shiftLeft_eq,
    Nat.mul_left_inj (Nat.two_pow_pos _).ne']

/-- Settles O26: either compare is the equality of field and key. -/
theorem compareFlavoursAgree : Obligations.CompareFlavoursAgree := by
  intro w l q x key raw hw1 hw hl hq hx
  have hlane : LegalLane w l q x := ⟨hw1, hw, hl, hq, hx⟩
  have hre := realignMul_eq_predRe_iff hlane key raw
  exact ⟨(and_cleanIn_eq_predIn_iff hlane key raw).trans hre.symm, hre⟩

/-- A compare flavour that moves lanes only, and whose lane equals the predicate when the field of the lane is the key. -/
structure Compare.TestsField (cmp : Compare) : Prop extends cmp.ByField where
  eq_iff : ∀ w l g x key sc, LegalLane w l (g % 2) x → sc.mfl = maskSets w l (some key) →
    (cmp.left (maskSet w l (g % 2) (some key)) (cmp.move w l g sc).vbu x =
        (cmp.pred (maskSet w l (g % 2) (some key))).getD x 0 ↔
      rawField w l (g % 2) x (sc.vbu.raw.getD x 0) = key.toNat)

theorem compareRealigned_testsField : compareRealigned.TestsField where
  toByField := compareRealigned_byField
  eq_iff w l g x key sc h hm := by
    have hr : (realignLanes l (realignMul w) g sc).vbu.r.getD x 0 = _ := getD_lanesOf _ _ _ h.x_lt
    rw [hm, forGroup_maskSets] at hr
    rw [← realignMul_eq_predRe_iff h, ← hr]
    rfl

theorem compareInPlace_testsField : compareInPlace.TestsField where
  toByField := compareInPlace_byField
  eq_iff _ _ _ _ key _ h _ := and_cleanIn_eq_predIn_iff h key _

end Sys2Proof.Machine

/-! PROOFS. Every SCAN that may run writes the match bits of its buffer in order, granule by granule, and counts them
(spec/44_vector_scanner.md R233 to R237, spec/42_scalar_codec.md R184, R187). -/

namespace Sys2Proof.Machine

/-! ## Counts -/

theorem countOf_add (p : Nat → Bool) (m n : Nat) : countOf p (m + n) = countOf p m + countOf (fun k => p (m + k)) n := by
  induction n with
  | zero => rfl
  | succ n ih => rw [← Nat.add_assoc, countOf, ih, countOf, Nat.add_assoc]

theorem countOf_eq_zero {p : Nat → Bool} {n : Nat} (h : ∀ k, k < n → p k = false) : countOf p n = 0 := by
  induction n with
  | zero => rfl
  | succ n ih => simp [countOf, h n (Nat.lt_succ_self n), ih fun k hk => h k (Nat.lt_succ_of_lt hk)]

/-! ## Granules written in order -/

/-- The granule `y` at place `u` holds the match bits of its values below `n` (spec/20_memory.md R66). -/
def HoldsMatches (q : Nat → Bool) (gb n u y : Nat) : Prop :=
  ∀ b, b < 8 * gb → 8 * gb * u + b < n → y.testBit b = q (8 * gb * u + b)

/-- The accumulator holds the match bits from value `i₀` up to value `i`, from bit 0 on. -/
def AccHolds (q : Nat → Bool) (i₀ i : Nat) (acc : BitVec 32) : Prop :=
  ∀ b, acc.getLsbD b = (decide (i₀ + b < i) && q (i₀ + b))

/-- VPS and the bitmap at `dst` once the values below `i` have been compared, where `q` says which of the `n` values match. -/
structure ScannedTo (q : Nat → Bool) (dst gb n i : Nat) (v : Vps) (m : Memory) : Prop where
  cnt : v.cnt = BitVec.ofNat 32 (countOf q i)
  bacc : i < n → AccHolds q (8 * gb * granuleOf gb i) i v.bacc
  granules : CellsAt dst gb (HoldsMatches q gb n) (granulesDone gb n i) m

/-- The accumulator with the match bits of the `l` values from `i` on (spec/44_vector_scanner.md R235). -/
def joinBits (q : Nat → Bool) (gb l i : Nat) (acc : BitVec 32) : BitVec 32 :=
  acc ||| BitVec.ofNat 32 (bitsOf (fun x => q (i + x)) l <<< (i % (8 * gb)))

/-- Nothing is compared: the count and the accumulator are 0. -/
theorem ScannedTo.start (q : Nat → Bool) (dst n : Nat) {gb : Nat} (hgb : 0 < gb) (pred : List Lane) {m : Memory}
    (hm : m.wf = true) : ScannedTo q dst gb n 0 ⟨pred, 0, 0⟩ m where
  cnt := rfl
  bacc _ b := by simp
  granules := by
    rw [granulesDone_zero hgb]
    exact CellsAt.none _ _ _ hm

/-- The bits of a granule below `n` are those of the accumulator, whatever is merged above them. -/
theorem mergeTail_testBit {width live v free b : Nat} (hb : b < live) :
    (mergeTail width live v free).testBit b = v.testBit b := by
  unfold mergeTail
  split
  · rfl
  · rw [Nat.add_comm, Nat.testBit_two_pow_mul_add _ (Nat.mod_lt _ (Nat.two_pow_pos live)), if_pos hb,
      Nat.testBit_mod_two_pow, decide_eq_true hb, Bool.true_and]

/-- A granule is written from an accumulator that holds all its bits below `n`. -/
theorem AccHolds.holdsMatches {q : Nat → Bool} {gb n u i : Nat} {acc : BitVec 32} (h : AccHolds q (8 * gb * u) i acc)
    (hi : 8 * gb * u + 8 * gb ≤ i ∨ n ≤ i) (free : Nat) :
    HoldsMatches q gb n u (mergeTail (8 * gb) (n - 8 * gb * u) acc.toNat free % 256 ^ gb) := by
  intro b hb hbn
  rw [show (256 : Nat) = 2 ^ 8 from rfl, ← Nat.pow_mul, Nat.testBit_mod_two_pow, decide_eq_true hb, Bool.true_and,
    mergeTail_testBit (by omega), BitVec.testBit_toNat, h b, decide_eq_true (by omega), Bool.true_and]

section
variable {q : Nat → Bool} {dst gb n i l : Nat} {v : Vps} {m : Memory}

section
variable (hgb : gb = 1 ∨ gb = 4) (hl : l = 1 ∨ l = 4 ∨ l = 8) (hil : i % l = 0)
include hgb hl hil

/-- `l` values from a multiple of `l` lie in one granule, and complete it when they end at a multiple of its size. -/
theorem values_in_granule :
    8 * gb * granuleOf gb i + i % (8 * gb) = i ∧ i % (8 * gb) + l ≤ 8 * gb ∧
      ((i + l) % (8 * gb) = 0 → i % (8 * gb) + l = 8 * gb) := by
  refine ⟨Nat.div_add_mod i (8 * gb), ?_⟩
  rcases hgb with rfl | rfl <;> rcases hl with rfl | rfl | rfl <;> omega

/-- Joining the next `l` match bits. -/
theorem AccHolds.join {acc : BitVec 32} (h : AccHolds q (8 * gb * granuleOf gb i) i acc) :
    AccHolds q (8 * gb * granuleOf gb i) (i + l) (joinBits q gb l i acc) := by
  obtain ⟨hi, hle, -⟩ := values_in_granule hgb hl hil
  intro b
  rw [joinBits, BitVec.getLsbD_or, h b, BitVec.getLsbD_ofNat, Nat.testBit_shiftLeft, bitsOf_testBit]
  by_cases hb : i % (8 * gb) ≤ b
  · have hpos : i + (b - i % (8 * gb)) = 8 * gb * granuleOf gb i + b := by omega
    rw [hpos, decide_eq_false (show ¬8 * gb * granuleOf gb i + b < i by omega)]
    by_cases hbl : b - i % (8 * gb) < l
    · simp [hb, hbl, show b < 32 by omega, show 8 * gb * granuleOf gb i + b < i + l by omega]
    · simp [hbl, show ¬8 * gb * granuleOf gb i + b < i + l by omega]
  · simp [hb, show 8 * gb * granuleOf gb i + b < i by omega, show 8 * gb * granuleOf gb i + b < i + l by omega]

/-- The next values do not complete their granule and are not the last: they wait in the accumulator. -/
theorem ScannedTo.join (h : ScannedTo q dst gb n i v m) (hi : i < n) (hc : ¬((i + l) % (8 * gb) = 0 ∨ n ≤ i + l))
    (pred : List Lane) :
    ScannedTo q dst gb n (i + l)
      ⟨pred, joinBits q gb l i v.bacc, v.cnt + BitVec.ofNat 32 (countOf (fun x => q (i + x)) l)⟩ m := by
  have hdone := granulesDone_add (n := n) hgb hl hil hi
  rw [if_neg hc] at hdone
  have hlt : i + l < n := by omega
  have hgran : granuleOf gb (i + l) = granuleOf gb i := (granulesDone_of_lt hlt).symm.trans hdone
  refine ⟨?_, fun _ => ?_, ?_⟩
  · rw [h.cnt, countOf_add, BitVec.ofNat_add]
  · rw [hgran]
    exact (h.bacc hi).join hgb hl hil
  · rw [hdone, ← granulesDone_of_lt hi]
    exact h.granules

/-- The next values complete their granule or are the last: it is written, and the accumulator is empty again. -/
theorem ScannedTo.flush (h : ScannedTo q dst gb n i v m) (hi : i < n) (hn : n < 2 ^ 32)
    (hc : (i + l) % (8 * gb) = 0 ∨ n ≤ i + l) (pred : List Lane) (free : Nat) :
    ScannedTo q dst gb n (i + l) ⟨pred, 0, v.cnt + BitVec.ofNat 32 (countOf (fun x => q (i + x)) l)⟩
      (memWrite m (dst + gb * granuleOf gb i) gb
        (mergeTail (8 * gb) (n - 8 * gb * granuleOf gb i) (joinBits q gb l i v.bacc).toNat free)) := by
  have hdone := granulesDone_add (n := n) hgb hl hil hi
  rw [if_pos hc] at hdone
  obtain ⟨hpos, -, hfull⟩ := values_in_granule hgb hl hil
  have hgran := h.granules
  rw [granulesDone_of_lt hi] at hgran
  refine ⟨?_, fun hlt b => ?_, ?_⟩
  · rw [h.cnt, countOf_add, BitVec.ofNat_add]
  · have hnext : 8 * gb * granuleOf gb (i + l) = i + l :=
      Nat.mul_div_cancel' (Nat.dvd_of_mod_eq_zero (hc.resolve_right (by omega)))
    simp [hnext]
  · rw [hdone]
    refine hgran.write (((h.bacc hi).join hgb hl hil).holdsMatches (by omega) free) ?_
    have : granuleOf gb i ≤ i := Nat.div_le_self _ _
    unfold addrSpace
    rcases hgb with rfl | rfl <;> omega

end

/-- With all values compared, a bit of the bitmap is the match bit of its value. -/
theorem ScannedTo.bitmapBit_eq (h : ScannedTo q dst gb n i v m) (hgb : 0 < gb) (hi : n ≤ i) {x : Nat} (hx : x < n) :
    bitmapBit m dst x = q x := by
  have hpos : 8 * gb * (x / (8 * gb)) + x % (8 * gb) = x := Nat.div_add_mod x (8 * gb)
  have hmod : x % (8 * gb) < 8 * gb := Nat.mod_lt _ (by omega)
  have hu : x / (8 * gb) < ceilDiv n (8 * gb) :=
    (lt_ceilDiv_iff (by omega)).mpr (Nat.lt_of_le_of_lt (Nat.div_mul_le_self x _) hx)
  have hcell := h.granules.cell (x / (8 * gb)) (by rwa [granulesDone_of_le hi]) (x % (8 * gb)) hmod (by omega)
  rw [hpos, memRead_testBit, decide_eq_true hmod, Bool.true_and] at hcell
  rw [Nat.mul_assoc] at hpos
  rw [← hcell, bitmapBit, show dst + gb * (x / (8 * gb)) + x % (8 * gb) / 8 = dst + x / 8 by omega,
    show x % (8 * gb) % 8 = x % 8 by omega]

/-- With all values compared, the count is the number of matches, which fits in 32 bits (R236). -/
theorem ScannedTo.cnt_eq (h : ScannedTo q dst gb n i v m) (hn : n < 2 ^ 32) (hi : n ≤ i) (hq : ∀ x, n ≤ x → q x = false) :
    v.cnt.toNat = countOf q n := by
  obtain ⟨d, rfl⟩ := Nat.exists_eq_add_of_le hi
  rw [h.cnt, countOf_add, countOf_eq_zero fun k _ => hq _ (Nat.le_add_right n k), Nat.add_zero]
  exact Nat.mod_eq_of_lt ((countOf_le q n).trans_lt hn)

end

/-- Which values below `N` of the buffer in `m₀` match the key. -/
def Job.hit (j : Job) (m₀ : Memory) (key : BitVec 16) (x : Nat) : Bool :=
  decide (x < j.n) && decide (j.field m₀ x = key.toNat)

/-- What a scan of the buffer in `m₀` for a key leaves: the count of matches and the bitmap at `dst` (R237). -/
structure ScanResult (j : Job) (m₀ : Memory) (key : BitVec 16) (dst : Nat) (count : BitVec 32) (m : Memory) : Prop where
  count : count.toNat = matchesIn m₀ j.src j.w j.n key.toNat
  bitmap : ∀ x, x < j.n → bitmapBit m dst x = decide (j.field m₀ x = key.toNat)

theorem ScannedTo.result {j : Job} {m₀ m : Memory} {key : BitVec 16} {dst gb i : Nat} {v : Vps}
    (h : ScannedTo (j.hit m₀ key) dst gb j.n i v m) (hgb : 0 < gb) (hi : j.n ≤ i) : ScanResult j m₀ key dst v.cnt m where
  count := by
    rw [h.cnt_eq j.op.n.isLt hi fun x hx => by simp [Job.hit, Nat.not_lt.mpr hx]]
    exact countOf_congr fun x hx => by simp [Job.hit, hx]
  bitmap x hx := by rw [h.bitmapBit_eq hgb hi hx, Job.hit, decide_eq_true hx, Bool.true_and]

/-! ## SCAN on the pipeline -/

/-- A lane-group is the last one exactly when the values end in it. -/
theorem succ_eq_groups_iff {n l g : Nat} (hl : 0 < l) (hg : g < groups n l) : g + 1 = groups n l ↔ n ≤ g * l + l := by
  have hlast := (lt_ceilDiv_iff (n := n) (g := g + 1) hl).not
  rw [Nat.succ_mul] at hlast
  rw [groups] at hg ⊢
  omega

theorem matchGroup_mfl (j : Job) (l gb dst : Nat) (cmp : Compare) (g : Nat) (sm : Scanner × Memory) :
    (matchGroup j l gb dst cmp g sm).1.mfl = sm.1.mfl := by
  unfold matchGroup
  simp only
  split <;> rfl

/-- The compare of a lane-group, where a lane of a value below `N` equals the predicate when the value is the key. -/
theorem matchGroup_scannedTo {j : Job} {l gb dst g : Nat} {cmp : Compare} {key : BitVec 16} {m₀ : Memory}
    {sm : Scanner × Memory} (hgb : gb = 1 ∨ gb = 4) (hl : l = 4 ∨ l = 8) (hg : g < groups j.n l)
    (h : ScannedTo (j.hit m₀ key) dst gb j.n (g * l) sm.1.vps sm.2)
    (heq : ∀ c, c < l → g * l + c < j.n →
      (cmp.left (sm.1.mfl.forGroup g) sm.1.vbu c = (cmp.pred (sm.1.mfl.forGroup g)).getD c 0 ↔
        j.field m₀ (g * l + c) = key.toNat)) :
    ScannedTo (j.hit m₀ key) dst gb j.n ((g + 1) * l) (matchGroup j l gb dst cmp g sm).1.vps
      (matchGroup j l gb dst cmp g sm).2 := by
  have hlt : g * l < j.n := (lt_ceilDiv_iff (by omega)).mp hg
  have hlane (c : Nat) (hc : c < l) : (decide (g * l + c < j.n) &&
      decide (cmp.left (sm.1.mfl.forGroup g) sm.1.vbu c = (cmp.pred (sm.1.mfl.forGroup g)).getD c 0)) =
      j.hit m₀ key (g * l + c) := by
    by_cases hn : g * l + c < j.n
    · rw [Job.hit, decide_eq_decide.mpr (heq c hc hn)]
    · simp [Job.hit, hn]
  unfold matchGroup
  simp only [bitsOf_congr hlane, countOf_congr hlane, succ_eq_groups_iff (by omega : 0 < l) hg]
  rw [Nat.succ_mul]
  split
  · next hc => exact h.flush hgb (.inr hl) (Nat.mul_mod_left g l) hlt j.op.n.isLt hc _ _
  · next hc => exact h.join hgb (.inr hl) (Nat.mul_mod_left g l) hlt hc _

/-- A scanner before lane-group `g`, having written in the regions only. -/
structure ScanAt (ws : List Span) (j : Job) (l gb dst : Nat) (key : BitVec 16) (m₀ : Memory) (g : Nat)
    (sm : Scanner × Memory) : Prop where
  mfl : sm.1.mfl = maskSets j.w l (some key)
  frame : Frame ws m₀ sm.2
  scanned : ScannedTo (j.hit m₀ key) dst gb j.n (g * l) sm.1.vps sm.2

theorem scanGroup_scanAt {ws : List Span} {j : Job} {l gb dst g : Nat} {cmp : Compare} {key : BitVec 16} {m₀ : Memory}
    {sm : Scanner × Memory} (hcmp : cmp.TestsField) (hw1 : 1 ≤ j.w) (hw : j.w ≤ 16) (hgb : gb = 1 ∨ gb = 4)
    (hl : l = 4 ∨ l = 8) (hg : g < groups j.n l) (hc : Covers ws dst (gb * ceilDiv j.n (8 * gb))) (hs : StreamKept ws j m₀)
    (h : ScanAt ws j l gb dst key m₀ g sm) : ScanAt ws j l gb dst key m₀ (g + 1) (scanGroup j l gb dst cmp g sm) := by
  obtain ⟨hm, hframe, hscan⟩ := h
  let sc := loadGroup l (loadUnaligned j l) g sm.2 sm.1
  have hmoved : (cmp.move j.w l g sc).mfl = maskSets j.w l (some key) := (hcmp.mfl _ _ _ sc).trans hm
  have hlt : g * l < j.n := (lt_ceilDiv_iff (by omega)).mp hg
  refine ⟨?_, matchGroup_frame (sm := (_, sm.2)) cmp hframe (by omega) hlt hc, ?_⟩
  · exact (matchGroup_mfl j l gb dst cmp g _).trans hmoved
  · refine matchGroup_scannedTo (sm := (cmp.move j.w l g sc, sm.2)) hgb hl hg ?_ fun c hcl hcn => ?_
    · rw [hcmp.vps]
      exact hscan
    · have hlane : LegalLane j.w l (g % 2) c := ⟨hw1, hw, hl, Nat.mod_lt g two_pos, hcl⟩
      rw [hmoved, forGroup_maskSets, hcmp.eq_iff _ _ _ _ _ sc hlane hm, rawField_loadGroup hlane hm,
        windowField_loadUnaligned hlane, fieldAt_congr (hs sm.2 hframe) hcn]

/-- The scan of a buffer whose live bits no write reaches (spec/44_vector_scanner.md R237, R238). -/
theorem scanBuffer_result {ws : List Span} {j : Job} {l gb dst : Nat} {cmp : Compare} {m : Memory} (hcmp : cmp.TestsField)
    (hw1 : 1 ≤ j.w) (hw : j.w ≤ 16) (hgb : gb = 1 ∨ gb = 4) (hl : l = 4 ∨ l = 8) (key : BitVec 16) (sc : Scanner)
    (hc : Covers ws dst (gb * ceilDiv j.n (8 * gb))) (hs : StreamKept ws j m) (hm : m.wf = true) :
    ScanResult j m key dst (scanBuffer j l gb cmp key dst (sc, m)).1.vps.cnt (scanBuffer j l gb cmp key dst (sc, m)).2 := by
  have h0 : ScanAt ws j l gb dst key m 0 (startScanner j.w l key sc, m) :=
    ⟨rfl, Frame.refl ws m, by rw [Nat.zero_mul]; exact ScannedTo.start _ _ _ (by omega) _ hm⟩
  have hend := upto_inv (ScanAt ws j l gb dst key m) h0 (n := groups j.n l) fun _ _ hg h =>
    scanGroup_scanAt hcmp hw1 hw hgb hl hg hc hs h
  exact hend.scanned.result (by omega) (le_ceilDiv_mul j.n (by omega))

/-! ## SCAN.S -/

/-- One value joins the accumulator (spec/42_scalar_codec.md R184). -/
theorem joinBits_one (q : Nat → Bool) (i : Nat) (acc : BitVec 32) :
    joinBits q 1 1 i acc = acc ||| (BitVec.ofNat 32 (q i).toNat <<< (i % 8)) := by
  rw [joinBits]
  congr 1
  refine BitVec.eq_of_toNat_eq ?_
  cases hq : q i <;> simp [bitsOf, hq, Nat.shiftLeft_eq]

theorem countOf_one (q : Nat → Bool) (i : Nat) : countOf (fun x => q (i + x)) 1 = (q i).toNat := by
  cases hq : q i <;> simp [countOf, hq]

/-- The emission of value `i`, which is its field. -/
theorem emitMatch_scannedTo {j : Job} {m₀ : Memory} {i : Nat} {x : BitVec 16} {e : Engine}
    (h : ScannedTo (j.hit m₀ j.op.key) j.dst 1 j.n i e.scan.vps e.mem) (hi : i < j.n) (hx : x.toNat = j.field m₀ i) :
    ScannedTo (j.hit m₀ j.op.key) j.dst 1 j.n (i + 1) (emitMatch j i x e).scan.vps (emitMatch j i x e).mem := by
  have hhit : decide (x = j.op.key) = j.hit m₀ j.op.key i := by
    rw [Job.hit, decide_eq_true hi, Bool.true_and, ← hx]
    exact decide_eq_decide.mpr BitVec.toNat_inj.symm
  have hflush := h.flush (l := 1) (.inl rfl) (.inl rfl) (Nat.mod_one i) hi j.op.n.isLt
  have hjoin := h.join (l := 1) (.inl rfl) (.inl rfl) (Nat.mod_one i) hi
  simp only [joinBits_one, countOf_one, granuleOf, Nat.mul_one, Nat.one_mul] at hflush hjoin
  unfold emitMatch
  simp only [hhit]
  split
  · next hc => exact hflush (by omega) _ _
  · next hc => exact hjoin (by omega) _

/-- The scalar scan of a buffer whose live bits no write reaches (spec/42_scalar_codec.md R187). -/
theorem scanScalarBody_result {ws : List Span} {j : Job} {e : Engine} (hw1 : 1 ≤ j.w) (hw : j.w ≤ 16)
    (hc : Covers ws j.dst (ceilDiv j.n 8)) (hs : StreamKept ws j e.mem) (hm : e.mem.wf = true) :
    ∃ f c, scanScalarBody j e = .done f c ∧ ScanResult j e.mem j.op.key j.dst c f.mem := by
  let e₀ : Engine := { e with scan := { e.scan with vps := { e.scan.vps with bacc := 0, cnt := 0 } } }
  obtain ⟨-, c, hcur⟩ := cursor_eq_loop (e₀ := e₀) (emitMatch_emitsOver hc hs) hw1 hw (Frame.refl ws e.mem)
  refine ⟨_, _, rfl, ?_⟩
  simp only
  rw [hcur]
  refine ScannedTo.result (gb := 1) ?_ Nat.one_pos le_rfl
  refine upto_inv (f := fieldPass (j.field e.mem) (emitMatch j)) (a := { e₀ with idx := 0 })
    (fun i f => ScannedTo (j.hit e.mem j.op.key) j.dst 1 j.n i f.scan.vps f.mem) (ScannedTo.start _ _ _ Nat.one_pos _ hm)
    fun i f hi hf => emitMatch_scannedTo hf hi ?_
  exact Nat.mod_eq_of_lt ((bitsOf_lt _ _).trans_le (Nat.pow_le_pow_right two_pos hw))

/-! ## Every SCAN -/

theorem op_of_mem_scans {i : Instr} (hi : i ∈ scans) : i.op = .scan := by
  revert i
  decide

/-- The one write region of a SCAN is the granules of its bitmap (spec/20_memory.md R76). -/
theorem writeSpans_scan {i : Instr} (hi : i ∈ scans) (o : Latches) :
    writeSpans i o = [⟨o.dst.toNat, bitmapLen i o.n.toNat⟩] := by
  cases i
  case scanS | scanV128 | scanV256 | scanV128I | scanV256I | scanV128U => rfl
  all_goals exact absurd hi (by decide)

/-- Every SCAN that does not overwrite its stream ends normally with the count and the bitmap. -/
theorem bodyOf_scan_result {i : Instr} {j : Job} {e : Engine} (hi : i ∈ scans) (hw1 : 1 ≤ j.w) (hw : j.w ≤ 16)
    (hm : e.mem.wf = true) (hs : StreamKept (writeSpans i j.op) j e.mem) :
    ∃ f c, bodyOf i j e = .done f c ∧ ScanResult j e.mem j.op.key j.dst c f.mem := by
  have vector {l gb : Nat} {cmp : Compare} (hl : l = 4 ∨ l = 8) (hgb : gb = 1 ∨ gb = 4) (hcmp : cmp.TestsField)
      (hs : StreamKept [⟨j.dst, gb * ceilDiv j.n (8 * gb)⟩] j e.mem) :
      ∃ f c, scanVectorBody l gb cmp j e = .done f c ∧ ScanResult j e.mem j.op.key j.dst c f.mem :=
    ⟨_, _, rfl, scanBuffer_result hcmp hw1 hw hgb hl j.op.key e.scan (covers_singleton _ _) hs hm⟩
  cases i <;> unfold bodyOf
  case scanS => exact scanScalarBody_result hw1 hw (covers_singleton _ _) hs hm
  case scanV128 => exact vector (.inl rfl) (.inl rfl) compareRealigned_testsField (by rwa [Nat.one_mul])
  case scanV256 => exact vector (.inr rfl) (.inl rfl) compareRealigned_testsField (by rwa [Nat.one_mul])
  case scanV128I => exact vector (.inl rfl) (.inl rfl) compareInPlace_testsField (by rwa [Nat.one_mul])
  case scanV256I => exact vector (.inr rfl) (.inl rfl) compareInPlace_testsField (by rwa [Nat.one_mul])
  case scanV128U => exact vector (.inl rfl) (.inr rfl) compareRealigned_testsField hs
  all_goals exact absurd hi (by decide)

/-- Settles O33: the body of either family leaves the count and the bitmap, and writes the granules only. -/
theorem scanWritesBitmapAndCount : Obligations.ScanWritesBitmapAndCount := by
  intro i hi s h
  obtain ⟨hw1, hw, -, -⟩ := startStop_none h.starts
  have hreads : ReadsStream i s.job := .inr (.inl (op_of_mem_scans hi))
  obtain ⟨f, c, hbody, hres⟩ := bodyOf_scan_result (j := s.job) hi hw1 hw h.canonical (ready_streamKept h hreads _)
  have hout := ready_sameOutside h (writeSpans_scan hi s.op)
  rw [hbody] at hout
  exact ⟨s.conclude (.done f c), by rw [exec_ready h, hbody], hres.count ▸ endedWith_conclude_done s f c, hres.bitmap, hout⟩

/-- Settles O34: the count and the bits of either strategy are those of the one buffer. -/
theorem scanStrategiesAgree : Obligations.ScanStrategiesAgree := by
  intro i hi i' hi' s h h'
  obtain ⟨t, ht, hend, hbits, -⟩ := scanWritesBitmapAndCount i hi s h
  obtain ⟨t', ht', hend', hbits', -⟩ := scanWritesBitmapAndCount i' hi' s h'
  exact ⟨t, t', ht, ht', BitVec.eq_of_toNat_eq (hend.count.trans hend'.count.symm),
    fun x hx => (hbits x hx).trans (hbits' x hx).symm⟩

/-- Settles O35: a field is below `2^W`, so no field is such a key. -/
theorem keyOutsideTheRangeMatchesNothing : Obligations.KeyOutsideTheRangeMatchesNothing := by
  intro i hi s h hkey
  obtain ⟨t, ht, hend, hbits, -⟩ := scanWritesBitmapAndCount i hi s h
  have hmiss (x : Nat) : decide (fieldAt s.eng.mem s.op.src.toNat s.op.w.toNat x = s.op.key.toNat) = false :=
    decide_eq_false ((bitsOf_lt _ _).trans_le hkey).ne
  rw [matchesIn, countOf_eq_zero fun x _ => hmiss x] at hend
  exact ⟨t, ht, hend, fun x hx => (hbits x hx).trans (hmiss x)⟩

end Sys2Proof.Machine

/-! PROOFS. The workers of the threaded shared scan together scan for the keys in order, whatever their number
(spec/45_shared_scanner.md R274, R275, R284), and with no key no shared scan writes (R262). -/

namespace Sys2Proof.Machine

/-! ## A scan does not depend on what its scanner held -/

/-- Two scanners over one memory with the same masks, accumulator and count. -/
structure SameScan (x y : Scanner × Memory) : Prop where
  mfl : x.1.mfl = y.1.mfl
  bacc : x.1.vps.bacc = y.1.vps.bacc
  cnt : x.1.vps.cnt = y.1.vps.cnt
  mem : x.2 = y.2

/-- The compare of a lane-group, where the lanes compare alike. -/
theorem matchGroup_sameScan {x y : Scanner × Memory} (j : Job) (l gb dst g : Nat) {cmp : Compare} (h : SameScan x y)
    (hleft : ∀ c, c < l → cmp.left (y.1.mfl.forGroup g) x.1.vbu c = cmp.left (y.1.mfl.forGroup g) y.1.vbu c) :
    SameScan (matchGroup j l gb dst cmp g x) (matchGroup j l gb dst cmp g y) := by
  obtain ⟨⟨mfl, vbu, vps⟩, m⟩ := x
  obtain ⟨hm, hb, hc, hmem⟩ := h
  simp only at hm hb hc hmem hleft
  subst hm hmem
  have heq (p : Lane) (c : Nat) (hcl : c < l) :
      (decide (g * l + c < j.n) && decide (cmp.left (y.1.mfl.forGroup g) vbu c = p)) =
      (decide (g * l + c < j.n) && decide (cmp.left (y.1.mfl.forGroup g) y.1.vbu c = p)) := by rw [hleft c hcl]
  unfold matchGroup
  simp only [bitsOf_congr fun c hcl => heq _ c hcl, countOf_congr fun c hcl => heq _ c hcl, hb, hc]
  split <;> exact ⟨rfl, rfl, rfl, rfl⟩

/-- A lane-group of the realigned scan overwrites the lanes it compares. -/
theorem scanGroup_sameScan {x y : Scanner × Memory} (j : Job) (l gb dst g : Nat) (h : SameScan x y) :
    SameScan (scanGroup j l gb dst compareRealigned g x) (scanGroup j l gb dst compareRealigned g y) := by
  obtain ⟨⟨mfl, vbu, vps⟩, m⟩ := x
  obtain ⟨hm, hb, hc, hmem⟩ := h
  simp only at hm hb hc hmem
  subst hm hmem
  obtain ⟨hm', hb', hc', hmem'⟩ := matchGroup_sameScan j l gb dst g (cmp := compareRealigned)
    (x := (compareRealigned.move j.w l g (loadGroup l (loadUnaligned j l) g y.2 ⟨y.1.mfl, vbu, vps⟩), y.2))
    (y := (compareRealigned.move j.w l g (loadGroup l (loadUnaligned j l) g y.2 y.1), y.2)) ⟨rfl, hb, hc, rfl⟩
    fun _ _ => rfl
  exact ⟨hm', hb', hc', hmem'⟩

/-- The scan writes the same whatever the scanner held. -/
theorem scanBuffer_mem_eq (j : Job) (l gb dst : Nat) (key : BitVec 16) (sc sc' : Scanner) (m : Memory) :
    (scanBuffer j l gb compareRealigned key dst (sc, m)).2 = (scanBuffer j l gb compareRealigned key dst (sc', m)).2 :=
  (upto_rel (n := groups j.n l) (a := (startScanner j.w l key sc, m)) (b := (startScanner j.w l key sc', m))
    (fun _ => SameScan) ⟨rfl, rfl, rfl, rfl⟩ fun g _ _ _ h => scanGroup_sameScan j l gb dst g h).mem

/-! ## The workers one after the other -/

/-- What a worker writes for key `x` of the store: the bitmap of SCAN.V128 (spec/45_shared_scanner.md R275). -/
def scanKey (j : Job) (ssm : Ssm) (x : Nat) (m : Memory) : Memory :=
  (scanBuffer j 4 1 compareRealigned (ssm.keyAt x) (bitmapBase j x) (Scanner.empty, m)).2

/-- The slices of the first `w` workers are the first keys. -/
theorem workerRun_mem {j : Job} {ssm : Ssm} {m : Memory} {w : Nat} {e : Engine} (hs : e.ssm = ssm)
    (hm : e.mem = upto (min (w * sliceLen j) j.k) (scanKey j ssm) m) :
    (workerRun j w e).ssm = ssm ∧
      (workerRun j w e).mem = upto (min ((w + 1) * sliceLen j) j.k) (scanKey j ssm) m := by
  have hend := upto_inv (f := fun d => workerKey j w (w * sliceLen j + d)) (a := e)
    (n := min ((w + 1) * sliceLen j) j.k - w * sliceLen j)
    (fun d f => f.ssm = ssm ∧ f.mem = upto (min (w * sliceLen j) j.k + d) (scanKey j ssm) m) ⟨hs, hm⟩
    fun d f hd ⟨hfs, hfm⟩ => by
      refine ⟨hfs, ?_⟩
      rw [← Nat.add_assoc, upto, ← hfm, Nat.min_eq_left (by omega)]
      simp only [workerKey, hfs]
      exact scanBuffer_mem_eq _ _ _ _ _ _ _ _
  rw [Nat.succ_mul] at hend ⊢
  rw [workerRun, Nat.succ_mul]
  refine ⟨hend.1, hend.2.trans ?_⟩
  congr 1
  omega

/-- SHSCAN.T scans for the keys of the table in order. -/
theorem threadedBody_mem {j : Job} (hnw : 0 < j.nwork) (e : Engine) :
    (threadedBody j e).engine.mem = upto j.k (scanKey j (loadKeys j e).ssm) e.mem := by
  have hend := upto_inv (f := workerRun j) (n := j.nwork)
    (a := loadKeys j { e with idx := 0, workers := List.replicate j.nwork Scanner.empty })
    (fun w f => f.ssm = (loadKeys j e).ssm ∧
      f.mem = upto (min (w * sliceLen j) j.k) (scanKey j (loadKeys j e).ssm) e.mem)
    ⟨rfl, by rw [Nat.zero_mul, Nat.zero_min]; rfl⟩ fun w f _ ⟨hs, hm⟩ => workerRun_mem hs hm
  have hall : j.k ≤ sliceLen j * j.nwork := le_ceilDiv_mul j.k hnw
  rw [Nat.mul_comm j.nwork, Nat.min_eq_right hall] at hend
  exact hend.2

/-- Settles O41: the scans for the keys in order are the same for every number of workers, and neither the checks nor a run
outside the contract look at it. -/
theorem threadedScanIsIndependentOfWorkers : Obligations.ThreadedScanIsIndependentOfWorkers := by
  intro s n
  let s' : State := { s with platform := { s.platform with extraWorkers := n } }
  have hmem : (bodyOf .shscanT s'.job s'.eng).engine.mem = (bodyOf .shscanT s.job s.eng).engine.mem :=
    (threadedBody_mem (j := s'.job) (Nat.succ_pos _) s.eng).trans (threadedBody_mem (j := s.job) (Nat.succ_pos _) s.eng).symm
  have hstart : startStop .shscanT s'.op = startStop .shscanT s.op := rfl
  have hheld : s'.contractHeld .shscanT = s.contractHeld .shscanT := rfl
  simp only [exec_eq_command, show ({ s with platform := _ } : State) = s' from rfl]
  unfold command
  rw [hstart, hheld]
  cases startStop .shscanT s.op with
  | some x => exact ⟨_, _, rfl, rfl, rfl, rfl, rfl, rfl⟩
  | none =>
    cases s.contractHeld .shscanT
    · exact ⟨_, _, rfl, rfl, rfl, rfl, rfl, rfl⟩
    · exact ⟨_, _, rfl, rfl, hmem, rfl, rfl, rfl⟩

/-! ## No key -/

/-- Without a key the body of a shared scan makes no pass that writes. -/
theorem shscanBody_mem_of_no_key {i : Instr} (hi : i.op = .shscan) {j : Job} (hk : j.k = 0) (hnw : 0 < j.nwork) (e : Engine) :
    (bodyOf i j e).engine.mem = e.mem := by
  have vertical (l : Nat) (il : Bool) : (verticalBody l il j e).engine.mem = e.mem := by
    unfold verticalBody
    rw [if_pos hk]
    rfl
  have horizontal (l : Nat) (hl : 0 < l) : (horizontalBody l j e).engine.mem = e.mem := by
    rw [horizontalBody, hk, (ceilDiv_eq_zero_iff hl).mpr rfl]
    rfl
  cases i
  case shscanV128 | shscanV256 | shscanV128X | shscanV256X => exact vertical _ _
  case shscanH4 | shscanH8 => exact horizontal _ (by decide)
  case shscanT => exact (threadedBody_mem hnw e).trans (by rw [hk]; rfl)
  all_goals exact absurd hi nofun

/-- Settles O40: the body ends normally and has written nothing. -/
theorem noKeyIsNoWrite : Obligations.NoKeyIsNoWrite := by
  intro i s hi h hk
  obtain ⟨f, hbody⟩ := shscanBody_done hi s.job s.eng
  have hmem := shscanBody_mem_of_no_key hi (j := s.job) hk (Nat.succ_pos _) s.eng
  rw [hbody] at hmem
  exact ⟨s.conclude (.done f 0), by rw [exec_ready h, hbody], endedWith_conclude_done s f 0, hmem⟩

end Sys2Proof.Machine

/-! PROOFS. The vertical shared scan writes the bit of every key and value, in either layout (spec/45_shared_scanner.md R261,
R263, R265). -/

namespace Sys2Proof.Machine

/-! ## The bytes of the keys -/

/-- No two of the bytes of the keys, `len` for each, have the same address. -/
def BytesApart (j : Job) (il : Bool) (len : Nat) : Prop :=
  ∀ t x t' x', t < len → x < j.k → t' < len → x' < j.k →
    octetAddr j il t x % addrSpace = octetAddr j il t' x' % addrSpace → t = t' ∧ x = x'

/-- The bits of key `x` below `N` say which values of the buffer in `m₀` equal it (spec/45_shared_scanner.md R261). -/
def KeyFound (j : Job) (il : Bool) (m₀ : Memory) (x : Nat) (m : Memory) : Prop :=
  ∀ i, i < j.n → (byteAt m (octetAddr j il (i / 8) x)).getLsbD (i % 8) = decide (j.field m₀ i = keyAt m₀ j.keys x)

/-- The bits of octet `t` and key `x`. -/
def OctetFound (j : Job) (il : Bool) (m₀ : Memory) (t x : Nat) (m : Memory) : Prop :=
  ∀ b, b < 8 → 8 * t + b < j.n →
    (byteAt m (octetAddr j il t x)).getLsbD b = decide (j.field m₀ (8 * t + b) = keyAt m₀ j.keys x)

theorem keyFound_of_octets {j : Job} {il : Bool} {m₀ m : Memory} {x : Nat}
    (h : ∀ t, t < ceilDiv j.n 8 → OctetFound j il m₀ t x m) : KeyFound j il m₀ x m := fun i hi => by
  have hbit := h (i / 8) ((lt_ceilDiv_iff (by decide)).mpr (by omega)) (i % 8) (Nat.mod_lt _ (by decide)) (by omega)
  rwa [Nat.div_add_mod] at hbit

/-- Key `x` of the table in `m₀`, as the key store holds it. -/
def Job.keyOf (j : Job) (m₀ : Memory) (x : Nat) : BitVec 16 := BitVec.ofNat 16 (keyAt m₀ j.keys x)

theorem keyOf_toNat (j : Job) (m₀ : Memory) (x : Nat) : (j.keyOf m₀ x).toNat = keyAt m₀ j.keys x :=
  Nat.mod_eq_of_lt (memRead_lt m₀ _ 2)

/-! ## The octets -/

/-- A vertical scan that writes in the regions only: its masks, its keys, its eight lanes. -/
structure VerticalAt (ws : List Span) (j : Job) (l : Nat) (m₀ : Memory) (e : Engine) : Prop where
  mfl : e.scan.mfl = maskSets j.w l none
  keys : ∀ x, x < j.k → e.ssm.keyAt x = j.keyOf m₀ x
  len : e.ssm.octet.length = 8
  frame : Frame ws m₀ e.mem
  wf : e.mem.wf = true

/-- The first `d` lanes of octet `t` are the values of the buffer in `m₀`, as far as there are values. -/
def LanesHold (j : Job) (m₀ : Memory) (t d : Nat) (e : Engine) : Prop :=
  ∀ c, c < d → 8 * t + c < j.n → (e.ssm.octet.getD c 0).toNat = j.field m₀ (8 * t + c)

section
variable {ws : List Span} {j : Job} {l t : Nat} {il : Bool} {m₀ : Memory} {e : Engine}

theorem octetGroup_lanesHold {h : Nat} (hw1 : 1 ≤ j.w) (hw : j.w ≤ 16) (hl : l = 4 ∨ l = 8) (hh : h < 8 / l)
    (hs : StreamKept ws j m₀) (hv : VerticalAt ws j l m₀ e) (hd : LanesHold j m₀ t (h * l) e) :
    VerticalAt ws j l m₀ (octetGroup j l t h e) ∧ LanesHold j m₀ t ((h + 1) * l) (octetGroup j l t h e) := by
  obtain ⟨hm, hk, hlen, hf, hwf⟩ := hv
  have hpos : (h + 1) * l ≤ 8 := (Nat.mul_le_mul_right l hh).trans (Nat.div_mul_le_self 8 l)
  have hg : (t * (8 / l) + h) * l = 8 * t + h * l := by rcases hl with rfl | rfl <;> omega
  rw [Nat.succ_mul] at hpos ⊢
  unfold octetGroup
  simp only
  split
  · refine ⟨⟨hm, hk, ?_, hf, hwf⟩, fun c hc hn => ?_⟩
    · rw [length_spliceLanes (by rw [length_r_realignGroup]; omega), hlen]
    · simp only
      rw [getD_spliceLanes (by omega) (by rw [length_r_realignGroup]; omega)]
      split
      · next hlt => exact hd c hlt hn
      · next hge =>
        rw [realignGroup_field (loadUnaligned_loadsStream j l m₀) (realignMul_extractsField j.w)
          ⟨hw1, hw, hl, Nat.mod_lt _ Nat.two_pos, by omega⟩ (by omega) (hs e.mem hf) trivial hm, hg]
        congr 1
        omega
  · next hge => exact ⟨⟨hm, hk, hlen, hf, hwf⟩, fun c hc hn => hd c (by omega) hn⟩

/-- The byte of an octet and a key is written with the bits of its values. -/
theorem octetKey_found {x : Nat} (hx : x < j.k) (hv : VerticalAt ws j l m₀ e) (hd : LanesHold j m₀ t 8 e) :
    OctetFound j il m₀ t x (octetKey j il t x e).mem := by
  intro b hb hn
  have hbyte := byteAt_memWrite hv.wf (a := octetAddr j il t x) (n := 1) (k := 0)
    (mergeTail 8 (j.n - 8 * t) (bitsOf (fun c => decide (8 * t + c < j.n) &&
      decide (e.ssm.octet.getD c 0 = (e.ssm.keyAt x).setWidth 32)) 8) (unspecAt j.draw (octetAddr j il t x) 1))
    Nat.one_pos (by decide)
  have hkey : (((j.keyOf m₀ x).setWidth 32 : Lane)).toNat = keyAt m₀ j.keys x := by
    rw [BitVec.toNat_setWidth_of_le (by decide), keyOf_toNat]
  simp only [octetKey]
  rw [Nat.add_zero, Nat.pow_zero, Nat.div_one] at hbyte
  rw [hbyte, BitVec.getLsbD_ofNat, mergeTail_testBit (by omega), bitsOf_testBit, decide_eq_true hb, decide_eq_true hn,
    Bool.true_and, Bool.true_and, Bool.true_and, hv.keys x hx, decide_eq_decide, ← BitVec.toNat_inj, hd b hb hn, hkey]

/-- A write to one byte of the keys leaves the others. -/
theorem OctetFound.write {len t' x x' v : Nat} {m : Memory} (hap : BytesApart j il len) (ht : t < len) (hx : x < j.k)
    (ht' : t' < len) (hx' : x' < j.k) (hne : ¬(t' = t ∧ x' = x)) (h : OctetFound j il m₀ t x m) :
    OctetFound j il m₀ t x (memWrite m (octetAddr j il t' x') 1 v) := by
  intro b hb hn
  rw [byteAt_memWrite_ne m v fun k hk he => hne (hap _ _ _ _ ht' hx' ht hx ?_), h b hb hn]
  rwa [Nat.lt_one_iff.mp hk, Nat.add_zero] at he

variable (hc : ∀ t x, t < ceilDiv j.n 8 → x < j.k → Covers ws (octetAddr j il t x) 1)
  (hap : BytesApart j il (ceilDiv j.n 8)) (ht : t < ceilDiv j.n 8)

include hc ht in
theorem octetKey_verticalAt {x : Nat} (hx : x < j.k) (hv : VerticalAt ws j l m₀ e) (hd : LanesHold j m₀ t 8 e) :
    VerticalAt ws j l m₀ (octetKey j il t x e) ∧ LanesHold j m₀ t 8 (octetKey j il t x e) :=
  ⟨⟨hv.mfl, hv.keys, hv.len, hv.frame.write (hc t x ht hx) _, memWrite_wf hv.wf _ _ _⟩, hd⟩

include hc hap ht in
/-- An octet is decoded once and tested with every key. -/
theorem octetPass_found (hw1 : 1 ≤ j.w) (hw : j.w ≤ 16) (hl : l = 4 ∨ l = 8) (hs : StreamKept ws j m₀)
    (hv : VerticalAt ws j l m₀ e) (hdone : ∀ t' x, t' < t → x < j.k → OctetFound j il m₀ t' x e.mem) :
    VerticalAt ws j l m₀ (octetPass j l il t e) ∧
      ∀ t' x, t' < t + 1 → x < j.k → OctetFound j il m₀ t' x (octetPass j l il t e).mem := by
  have hlanes := upto_inv (fun h f => (VerticalAt ws j l m₀ f ∧ LanesHold j m₀ t (h * l) f) ∧ f.mem = e.mem) (n := 8 / l)
    ⟨⟨hv, fun c hc => absurd hc (by omega)⟩, rfl⟩ fun h f hh ⟨⟨hv, hd⟩, hm⟩ =>
      ⟨octetGroup_lanesHold (t := t) hw1 hw hl hh hs hv hd, (octetGroup_mem j l t h f).trans hm⟩
  rw [show 8 / l * l = 8 by rcases hl with rfl | rfl <;> rfl] at hlanes
  obtain ⟨⟨hv', hd'⟩, hmem⟩ := hlanes
  have hkeys := upto_inv (f := octetKey j il t) (n := j.k) (fun d f => (VerticalAt ws j l m₀ f ∧ LanesHold j m₀ t 8 f) ∧
      ∀ t' x, x < j.k → t' < t ∨ t' = t ∧ x < d → OctetFound j il m₀ t' x f.mem)
    ⟨⟨hv', hd'⟩, fun t' x hx hlt => hmem ▸ hdone t' x (by omega) hx⟩ fun d f hdk ⟨⟨hv, hd⟩, hf⟩ => by
      refine ⟨octetKey_verticalAt hc ht hdk hv hd, fun t' x hx hlt => ?_⟩
      by_cases heq : t' = t ∧ x = d
      · obtain ⟨rfl, rfl⟩ := heq
        exact octetKey_found hx hv hd
      · exact (hf t' x hx (by omega)).write hap (by omega) hx ht hdk (by omega)
  obtain ⟨⟨⟨hm, hk, hlen, hframe, hwf⟩, -⟩, hf⟩ := hkeys
  exact ⟨⟨hm, hk, hlen, hframe, hwf⟩, fun t' x hlt hx => hf t' x hx (by omega)⟩

include hc hap in
/-- All octets, each with every key. -/
theorem octets_found (hw1 : 1 ≤ j.w) (hw : j.w ≤ 16) (hl : l = 4 ∨ l = 8) (hs : StreamKept ws j m₀)
    (hv : VerticalAt ws j l m₀ e) {t x : Nat} (ht : t < ceilDiv j.n 8) (hx : x < j.k) :
    OctetFound j il m₀ t x (upto (ceilDiv j.n 8) (octetPass j l il) e).mem := by
  have hend := upto_inv (fun t f => VerticalAt ws j l m₀ f ∧ ∀ t' x, t' < t → x < j.k → OctetFound j il m₀ t' x f.mem)
    ⟨hv, nofun⟩ fun t f ht ⟨hv, hf⟩ => octetPass_found hc hap ht hw1 hw hl hs hv hf
  obtain ⟨-, hfound⟩ := hend
  exact hfound t x ht hx

end

/-- The vertical scan of a buffer whose live bits no write reaches (spec/45_shared_scanner.md R264, R265). -/
theorem verticalBody_found {ws : List Span} {j : Job} {l : Nat} {il : Bool} {e : Engine} (hw1 : 1 ≤ j.w) (hw : j.w ≤ 16)
    (hl : l = 4 ∨ l = 8) (hk0 : j.k ≠ 0)
    (hc : ∀ t x, t < ceilDiv j.n 8 → x < j.k → Covers ws (octetAddr j il t x) 1) (hap : BytesApart j il (ceilDiv j.n 8))
    (hs : StreamKept ws j e.mem) (hm : e.mem.wf = true) {x : Nat} (hx : x < j.k) :
    KeyFound j il e.mem x (verticalBody l il j e).engine.mem := by
  unfold verticalBody
  simp only [hk0, if_false, RunEnd.engine_done]
  refine keyFound_of_octets fun t ht => octets_found hc hap hw1 hw hl hs ?_ ht hx
  exact ⟨rfl, fun x hx => keyAt_loadKeys j _ hx, rfl, Frame.refl ws _, hm⟩

end Sys2Proof.Machine

/-! PROOFS. The horizontal shared scan writes the bit of every key and value: each lane of a key group is a scan of its own
for one key, whose granules the flushes of the other lanes do not reach (spec/45_shared_scanner.md R261, R269 to R272). -/

namespace Sys2Proof.Machine

/-! ## Granules and other writes -/

theorem CellsAt.congr {base c k : Nat} {Q : Nat → Nat → Prop} {m m' : Memory} (h : CellsAt base c Q k m) (hm : m'.wf = true)
    (hb : ∀ d, d < c * k → byteAt m' (base + d) = byteAt m (base + d)) : CellsAt base c Q k m' := by
  refine ⟨hm, fun i hi => ?_⟩
  have hle : c * (i + 1) ≤ c * k := Nat.mul_le_mul_left c hi
  rw [Nat.mul_succ] at hle
  have hread : memRead m' (base + c * i) c = memRead m (base + c * i) c :=
    memRead_congr fun d hd => by rw [Nat.add_assoc, hb _ (by omega)]
  exact hread ▸ h.cell i hi

theorem granulesDone_le {gb n i : Nat} : granulesDone gb n i ≤ ceilDiv n (8 * gb) := by
  unfold granulesDone
  split
  · exact le_rfl
  · exact Nat.div_le_div_right (by omega)

/-- A scan goes on whatever is written outside its bitmap. -/
theorem ScannedTo.congr {q : Nat → Bool} {dst gb n i : Nat} {v : Vps} {m m' : Memory} (h : ScannedTo q dst gb n i v m)
    (hm : m'.wf = true) (hb : ∀ d, d < gb * ceilDiv n (8 * gb) → byteAt m' (dst + d) = byteAt m (dst + d)) :
    ScannedTo q dst gb n i v m' :=
  ⟨h.cnt, h.bacc, h.granules.congr hm fun d hd => hb d (hd.trans_le (Nat.mul_le_mul_left gb granulesDone_le))⟩

/-- One match bit joins the accumulator, whatever the granule. -/
theorem joinBits_single (q : Nat → Bool) (gb i : Nat) (acc : BitVec 32) :
    joinBits q gb 1 i acc = acc ||| (BitVec.ofNat 32 (q i).toNat <<< (i % (8 * gb))) := by
  rw [joinBits]
  congr 1
  refine BitVec.eq_of_toNat_eq ?_
  cases hq : q i <;> simp [bitsOf, hq, Nat.shiftLeft_eq]

/-! ## One lane -/

/-- The lane of key `x` has compared the values below `i`: its accumulator is `acc`, its granules are in `m`. A lane counts
nothing, so the count of the scan is any. -/
def LaneAt (j : Job) (m₀ : Memory) (x i : Nat) (acc : Lane) (m : Memory) : Prop :=
  ∃ cnt, ScannedTo (j.hit m₀ (j.keyOf m₀ x)) (bitmapBase j x) 4 j.n i ⟨[], acc, cnt⟩ m

/-- The lane of key `x` has joined the match bit of value `i` too, and not yet written its granule. -/
def LaneJoined (j : Job) (m₀ : Memory) (x i : Nat) (acc : Lane) (m : Memory) : Prop :=
  ∃ acc₀, LaneAt j m₀ x i acc₀ m ∧ acc = joinBits (j.hit m₀ (j.keyOf m₀ x)) 4 1 i acc₀

/-- The bytes of the bitmap of key `x` are the same. -/
def BitmapKept (j : Job) (x : Nat) (m m' : Memory) : Prop :=
  ∀ d, d < 4 * ceilDiv j.n 32 → byteAt m' (bitmapBase j x + d) = byteAt m (bitmapBase j x + d)

section
variable {j : Job} {m₀ m m' : Memory} {x i : Nat} {acc : Lane}

theorem LaneAt.kept (h : LaneAt j m₀ x i acc m) (hm : m'.wf = true) (hb : BitmapKept j x m m') : LaneAt j m₀ x i acc m' :=
  h.imp fun _ hs => hs.congr hm hb

theorem LaneJoined.kept (h : LaneJoined j m₀ x i acc m) (hm : m'.wf = true) (hb : BitmapKept j x m m') :
    LaneJoined j m₀ x i acc m' := h.imp fun _ ⟨hl, he⟩ => ⟨hl.kept hm hb, he⟩

theorem KeyFound.kept (h : KeyFound j false m₀ x m) (hb : BitmapKept j x m m') : KeyFound j false m₀ x m' := fun i hi => by
  have hlt : i / 8 < 4 * ceilDiv j.n 32 := by unfold ceilDiv; omega
  rw [← h i hi]
  exact congrArg (BitVec.getLsbD · _) (hb (i / 8) hlt)

/-- The flush of one key's lane leaves the bitmaps of the others. -/
theorem flushLane_bitmapKept {first c : Nat} (e : Engine) (hap : BytesApart j false (4 * ceilDiv j.n 32)) (hx : x < j.k)
    (hc : first + c < j.k) (hne : x ≠ first + c) (hi : i < j.n) : BitmapKept j x e.mem (flushLane j first i c e).mem := by
  have hgr := granule_in_bitmap (gb := 4) (by decide) hi
  simp only [granuleOf, show 8 * 4 = 32 from rfl] at hgr
  intro d hd
  refine byteAt_memWrite_ne e.mem _ fun b hb he => hne (hap d x (4 * (i / 32) + b) _ hd hx (by omega) hc ?_).2
  rw [Nat.add_assoc] at he
  exact he.symm

theorem LaneAt.start (hm : m.wf = true) : LaneAt j m₀ x 0 0 m := ⟨0, ScannedTo.start _ _ _ (by decide) [] hm⟩

/-- All values compared, the bitmap is there. -/
theorem LaneAt.keyFound (h : LaneAt j m₀ x j.n acc m) : KeyFound j false m₀ x m := fun i hi => by
  obtain ⟨cnt, hs⟩ := h
  have hbit := hs.bitmapBit_eq (by decide) le_rfl hi
  rwa [Job.hit, decide_eq_true hi, Bool.true_and, keyOf_toNat] at hbit

/-- A granule that is not complete waits in the accumulator. -/
theorem LaneJoined.join (h : LaneJoined j m₀ x i acc m) (hi : i < j.n) (hc : ¬(i % 32 = 31 ∨ i + 1 = j.n)) :
    LaneAt j m₀ x (i + 1) acc m := by
  obtain ⟨acc₀, ⟨cnt, hs⟩, rfl⟩ := h
  exact ⟨_, hs.join (l := 1) (.inr rfl) (.inl rfl) (Nat.mod_one i) hi (by omega) []⟩

/-- A complete or last granule is written (spec/45_shared_scanner.md R271). -/
theorem LaneJoined.flush (h : LaneJoined j m₀ x i acc m) (hi : i < j.n) (hc : i % 32 = 31 ∨ i + 1 = j.n) (free : Nat) :
    LaneAt j m₀ x (i + 1) 0 (memWrite m (bitmapBase j x + 4 * (i / 32)) 4
      (mergeTail 32 (j.n - 32 * (i / 32)) acc.toNat free)) := by
  obtain ⟨acc₀, ⟨cnt, hs⟩, rfl⟩ := h
  exact ⟨_, hs.flush (l := 1) (.inr rfl) (.inl rfl) (Nat.mod_one i) hi j.op.n.isLt (by omega) [] free⟩

end

/-! ## A key group -/

/-- The keys of the group whose first key is `first` (spec/45_shared_scanner.md R270). -/
def groupKeys (j : Job) (l first : Nat) : Nat := min l (j.k - first)

/-- A key group under way: the keys before it are found, and `R` says how each lane stands. -/
structure GroupAt (j : Job) (m₀ : Memory) (l first : Nat) (R : Nat → Lane → Memory → Prop) (e : Engine) : Prop where
  wf : e.mem.wf = true
  keys : ∀ x, x < j.k → e.ssm.keyAt x = j.keyOf m₀ x
  bcast : e.ssm.bcast = (List.range (groupKeys j l first)).map fun c => j.keyOf m₀ (first + c)
  accs : e.ssm.accs.length = l
  found : ∀ x, x < first → x < j.k → KeyFound j false m₀ x e.mem
  lanes : ∀ c, c < groupKeys j l first → R c (e.ssm.accs.getD c 0) e.mem

/-- How lane `c` stands when the flush of value `i` has done the first `d` lanes. -/
def Flushing (j : Job) (m₀ : Memory) (first i d c : Nat) (acc : Lane) (m : Memory) : Prop :=
  if c < d then LaneAt j m₀ (first + c) (i + 1) acc m else LaneJoined j m₀ (first + c) i acc m

section
variable {j : Job} {m₀ : Memory} {l first i : Nat} {e : Engine}

/-- A value is compared with every key of the group. -/
theorem GroupAt.accumulate {v : BitVec 16} (h : GroupAt j m₀ l first (fun c => LaneAt j m₀ (first + c) i) e) (hi : i < j.n)
    (hv : v.toNat = j.field m₀ i) :
    GroupAt j m₀ l first (fun c => LaneJoined j m₀ (first + c) i) { e with ssm := Machine.accumulate i v e.ssm } := by
  obtain ⟨hwf, hkeys, hbcast, haccs, hfound, hlanes⟩ := h
  refine ⟨hwf, hkeys, hbcast, by simpa [Machine.accumulate] using haccs, hfound, fun c hc => ⟨_, hlanes c hc, ?_⟩⟩
  have hcl : c < e.ssm.accs.length := haccs ▸ hc.trans_le (Nat.min_le_left _ _)
  have hhit : j.hit m₀ (j.keyOf m₀ (first + c)) i = decide (v = j.keyOf m₀ (first + c)) := by
    rw [Job.hit, decide_eq_true hi, Bool.true_and, ← hv]
    exact decide_eq_decide.mpr BitVec.toNat_inj
  rw [joinBits_single, hhit]
  simp [Machine.accumulate, hbcast, hc, hcl]

/-- The flush of lane `d`. -/
theorem GroupAt.flushLane {d : Nat} (hap : BytesApart j false (4 * ceilDiv j.n 32)) (hi : i < j.n)
    (hc : i % 32 = 31 ∨ i + 1 = j.n) (hd : d < groupKeys j l first) (h : GroupAt j m₀ l first (Flushing j m₀ first i d) e) :
    GroupAt j m₀ l first (Flushing j m₀ first i (d + 1)) (Machine.flushLane j first i d e) := by
  obtain ⟨hwf, hkeys, hbcast, haccs, hfound, hlanes⟩ := h
  have hle (c : Nat) (hcg : c < groupKeys j l first) : c < l ∧ first + c < j.k := by
    unfold groupKeys at hcg
    omega
  obtain ⟨hdl, hdk⟩ := hle d hd
  have hwf' := flushLane_wf j first i d hwf
  have hkept {x : Nat} (hx : x < j.k) (hne : x ≠ first + d) := flushLane_bitmapKept e hap hx hdk hne hi
  refine ⟨hwf', hkeys, hbcast, (List.length_set).trans haccs,
    fun x hx hxk => (hfound x hx hxk).kept (hkept hxk (by omega)), fun c hcg => ?_⟩
  have hlane := hlanes c hcg
  by_cases hcd : c = d
  · subst hcd
    rw [Flushing, if_neg (Nat.lt_irrefl c)] at hlane
    rw [Flushing, if_pos (Nat.lt_succ_self c)]
    simpa [Machine.flushLane, haccs, hdl] using hlane.flush hi hc _
  · have hacc : (Machine.flushLane j first i d e).ssm.accs.getD c 0 = e.ssm.accs.getD c 0 := by
      simp [Machine.flushLane, List.getD_eq_getElem?_getD, List.getElem?_set_ne (Ne.symm hcd)]
    have hkc := hkept (hle c hcg).2 (by omega)
    rw [Flushing] at hlane ⊢
    rw [hacc]
    split at hlane
    · rw [if_pos (by omega)]
      exact hlane.kept hwf' hkc
    · rw [if_neg (by omega)]
      exact hlane.kept hwf' hkc

/-- The emission of value `i` to the lanes of a group (spec/45_shared_scanner.md R271, R272). -/
theorem GroupAt.emitKeys {v : BitVec 16} (hap : BytesApart j false (4 * ceilDiv j.n 32)) (hi : i < j.n)
    (hv : v.toNat = j.field m₀ i) (h : GroupAt j m₀ l first (fun c => LaneAt j m₀ (first + c) i) e) :
    GroupAt j m₀ l first (fun c => LaneAt j m₀ (first + c) (i + 1)) (Machine.emitKeys j first i v e) := by
  have hacc := h.accumulate hi hv
  have hlen : (Machine.accumulate i v e.ssm).bcast.length = groupKeys j l first := by
    rw [hacc.bcast, List.length_map, List.length_range]
  unfold Machine.emitKeys
  simp only [hlen]
  split
  · next hc =>
    have hflush := upto_inv (fun d => GroupAt j m₀ l first (Flushing j m₀ first i d)) (n := groupKeys j l first)
      { hacc with lanes := fun c hcg => by rw [Flushing, if_neg (Nat.not_lt_zero c)]; exact hacc.lanes c hcg }
      fun d f hd hf => hf.flushLane hap hi hc hd
    exact { hflush with lanes := fun c hcg => by simpa only [Flushing, if_pos hcg] using hflush.lanes c hcg }
  · next hc => exact { hacc with lanes := fun c hcg => (hacc.lanes c hcg).join hi hc }

end

/-! ## The groups -/

/-- A horizontal scan that writes in the regions only and has found the first `k` keys. -/
structure HorizontalAt (ws : List Span) (j : Job) (m₀ : Memory) (k : Nat) (e : Engine) : Prop where
  wf : e.mem.wf = true
  frame : Frame ws m₀ e.mem
  keys : ∀ x, x < j.k → e.ssm.keyAt x = j.keyOf m₀ x
  found : ∀ x, x < k → x < j.k → KeyFound j false m₀ x e.mem

theorem groupStart_groupAt {ws : List Span} {j : Job} {m₀ : Memory} {l jg : Nat} {e : Engine}
    (h : HorizontalAt ws j m₀ (jg * l) e) :
    GroupAt j m₀ l (jg * l) (fun c => LaneAt j m₀ (jg * l + c) 0) (groupStart j l jg e) where
  wf := h.wf
  keys := h.keys
  bcast := List.map_congr_left fun c hc => h.keys _ (by have := List.mem_range.mp hc; omega)
  accs := List.length_replicate
  found := h.found
  lanes c hc := by
    have hcl : c < l := hc.trans_le (Nat.min_le_left _ _)
    simpa [groupStart, hcl] using LaneAt.start h.wf

/-- One pass of the stream finds the keys of its group. -/
theorem keyGroup_found {ws : List Span} {j : Job} {m₀ : Memory} {l jg : Nat} {e : Engine} (hw1 : 1 ≤ j.w) (hw : j.w ≤ 16)
    (hc : ∀ x, x < j.k → Covers ws (bitmapBase j x) (4 * ceilDiv j.n 32)) (hap : BytesApart j false (4 * ceilDiv j.n 32))
    (hs : StreamKept ws j m₀) (h : HorizontalAt ws j m₀ (jg * l) e) :
    HorizontalAt ws j m₀ ((jg + 1) * l) (keyGroup j l jg e) := by
  have hcov (c : Nat) (hcn : c < min l (j.k - jg * l)) : Covers ws (bitmapBase j (jg * l + c)) (4 * ceilDiv j.n 32) :=
    hc _ (by omega)
  obtain ⟨⟨hframe, -⟩, s, hcur⟩ := cursor_eq_loop (e₀ := groupStart j l jg e) (emitKeys_emitsOver hcov hs) hw1 hw
    ⟨h.frame, length_groupStart_bcast j l jg e⟩
  have hend := upto_inv (f := fieldPass (j.field m₀) (emitKeys j (jg * l))) (a := { groupStart j l jg e with idx := 0 })
    (n := j.n) (fun i => GroupAt j m₀ l (jg * l) fun c => LaneAt j m₀ (jg * l + c) i)
    { groupStart_groupAt h with } fun i f hi hf => by
      have hv : (BitVec.ofNat 16 (j.field m₀ i)).toNat = j.field m₀ i :=
        Nat.mod_eq_of_lt ((bitsOf_lt _ _).trans_le (Nat.pow_le_pow_right two_pos hw))
      exact { hf.emitKeys hap hi hv with }
  rw [keyGroup_eq_cursor]
  refine ⟨?_, hframe, ?_, fun x hx hxk => ?_⟩ <;> rw [hcur]
  · exact hend.wf
  · exact hend.keys
  · rw [Nat.succ_mul] at hx
    by_cases hold : x < jg * l
    · exact hend.found x hold hxk
    · have hlane := (hend.lanes (x - jg * l) (by unfold groupKeys; omega)).keyFound
      rwa [show jg * l + (x - jg * l) = x by omega] at hlane

/-- The horizontal scan of a buffer whose live bits no write reaches (spec/45_shared_scanner.md R272). -/
theorem horizontalBody_found {ws : List Span} {j : Job} {l : Nat} {e : Engine} (hw1 : 1 ≤ j.w) (hw : j.w ≤ 16) (hl : 0 < l)
    (hc : ∀ x, x < j.k → Covers ws (bitmapBase j x) (4 * ceilDiv j.n 32)) (hap : BytesApart j false (4 * ceilDiv j.n 32))
    (hs : StreamKept ws j e.mem) (hm : e.mem.wf = true) {x : Nat} (hx : x < j.k) :
    KeyFound j false e.mem x (horizontalBody l j e).engine.mem := by
  have h0 : HorizontalAt ws j e.mem (0 * l) (loadKeys j { e with idx := 0 }) :=
    ⟨hm, Frame.refl ws _, fun x hx => keyAt_loadKeys j _ hx, fun x hx => absurd hx (by omega)⟩
  have hend := upto_inv (fun jg => HorizontalAt ws j e.mem (jg * l)) h0 (n := ceilDiv j.k l)
    fun jg f _ => keyGroup_found hw1 hw hc hap hs
  exact hend.found x (hx.trans_le (le_ceilDiv_mul j.k hl)) hx

end Sys2Proof.Machine

/-! PROOFS. The threaded shared scan writes the bit of every key and value, and so every shared scan that may run does: in its
own bitmap for each key or in the interleaved buffer (spec/45_shared_scanner.md R261, R263, R275, R276). -/

namespace Sys2Proof.Machine

/-! ## The threaded family -/

/-- An address of a region is one of its bytes. -/
theorem Span.exists_of_has {r : Span} {a : Nat} (h : r.has a = true) :
    ∃ k, k < r.len ∧ (r.base + k) % addrSpace = a % addrSpace := by
  refine ⟨(a + addrSpace - r.base % addrSpace) % addrSpace, by simpa [Span.has] using h, ?_⟩
  unfold addrSpace
  omega

/-- What keeps the stream of one memory keeps that of every memory it has become. -/
theorem StreamKept.of_frame {ws : List Span} {j : Job} {m₀ m : Memory} (hs : StreamKept ws j m₀) (hf : Frame ws m₀ m) :
    StreamKept ws j m := fun m' hf' b hb =>
  (hs m' (fun a ha => (hf' a ha).trans (hf a ha)) b hb).trans (hs m hf b hb).symm

/-- The scan for one key leaves the bitmaps of the others. -/
theorem scanKey_kept {j : Job} {m₀ m : Memory} {x y : Nat} (ssm : Ssm) (hap : BytesApart j false (ceilDiv j.n 8)) (hx : x < j.k)
    (hy : y < j.k) (hne : y ≠ x) (h : KeyFound j false m₀ y m) : KeyFound j false m₀ y (scanKey j ssm x m) := by
  have hframe : Frame [⟨bitmapBase j x, ceilDiv j.n 8⟩] m (scanKey j ssm x m) :=
    scanBuffer_frame (sm := (_, m)) _ _ (Frame.refl _ m) (by decide) Nat.one_pos (by simpa using covers_singleton _ _)
  intro i hi
  have hin : inSpans [⟨bitmapBase j x, ceilDiv j.n 8⟩] (octetAddr j false (i / 8) y) = false := by
    rw [← Bool.not_eq_true, inSpans_iff]
    rintro ⟨r, hr, hra⟩
    obtain rfl := List.mem_singleton.mp hr
    obtain ⟨t, ht, he⟩ := Span.exists_of_has hra
    exact hne (hap _ _ _ _ ((lt_ceilDiv_iff (by decide)).mpr (by omega)) hy ht hx he.symm).2
  rw [hframe _ hin, h i hi]

/-- The scan for one key finds it. -/
theorem scanKey_found {ws : List Span} {j : Job} {m₀ m : Memory} {x : Nat} {ssm : Ssm} (hw1 : 1 ≤ j.w) (hw : j.w ≤ 16)
    (hc : Covers ws (bitmapBase j x) (ceilDiv j.n 8)) (hs : StreamKept ws j m₀) (hkey : ssm.keyAt x = j.keyOf m₀ x)
    (hm : m.wf = true) (hf : Frame ws m₀ m) : KeyFound j false m₀ x (scanKey j ssm x m) := by
  have hres := scanBuffer_result compareRealigned_testsField hw1 hw (.inl rfl) (.inl rfl) (ssm.keyAt x) Scanner.empty
    (by simpa using hc) (hs.of_frame hf) hm
  intro i hi
  have hbit := hres.bitmap i hi
  rwa [hkey, keyOf_toNat, show j.field m i = j.field m₀ i from fieldAt_congr (hs m hf) hi, ← hkey] at hbit

/-- The threaded scan of a buffer whose live bits no write reaches (spec/45_shared_scanner.md R275). -/
theorem threadedBody_found {ws : List Span} {j : Job} {e : Engine} (hw1 : 1 ≤ j.w) (hw : j.w ≤ 16) (hnw : 0 < j.nwork)
    (hc : ∀ x, x < j.k → Covers ws (bitmapBase j x) (ceilDiv j.n 8)) (hap : BytesApart j false (ceilDiv j.n 8))
    (hs : StreamKept ws j e.mem) (hm : e.mem.wf = true) {x : Nat} (hx : x < j.k) :
    KeyFound j false e.mem x (threadedBody j e).engine.mem := by
  have hend := upto_inv (f := scanKey j (loadKeys j e).ssm) (a := e.mem) (n := j.k)
    (fun d m => m.wf = true ∧ Frame ws e.mem m ∧ ∀ x, x < d → KeyFound j false e.mem x m)
    ⟨hm, Frame.refl ws _, nofun⟩ fun d m hd ⟨hwf, hf, hfound⟩ => by
      refine ⟨scanBuffer_wf _ _ _ _ _ _ hwf,
        scanBuffer_frame (sm := (_, m)) _ _ hf (by decide) Nat.one_pos (by simpa using hc d hd), fun x hx => ?_⟩
      rcases Nat.lt_succ_iff_lt_or_eq.mp hx with hlt | rfl
      · exact scanKey_kept _ hap hd (by omega) (by omega) (hfound x hlt)
      · exact scanKey_found hw1 hw (hc x hd) hs (keyAt_loadKeys j e hd) hwf hf
  obtain ⟨-, -, hfound⟩ := hend
  rw [threadedBody_mem hnw]
  exact hfound x hx

/-! ## The layouts -/

theorem op_of_mem_separateScans {i : Instr} (hi : i ∈ separateScans) : i.op = .shscan := by
  revert i
  decide

theorem op_of_mem_interleavedScans {i : Instr} (hi : i ∈ interleavedScans) : i.op = .shscan := by
  revert i
  decide

/-- The write footprint of the separate layout (spec/20_memory.md R76), and what keeps its bitmaps apart (R88). -/
theorem separateScan_layout {i : Instr} (hi : i ∈ separateScans) (o : Latches) :
    writeSpans i o = bitmapSpans o (bitmapLen i o.n.toNat) ∧
      (bitmapsApart i o = true → o.k.toNat ≤ 1 ∨ bitmapLen i o.n.toNat ≤ o.stride.toNat) := by
  cases i
  case shscanV128 | shscanV256 | shscanT | shscanH4 | shscanH8 => exact ⟨rfl, by simp [bitmapsApart]⟩
  all_goals exact absurd hi (by decide)

theorem writeSpans_interleavedScan {i : Instr} (hi : i ∈ interleavedScans) (o : Latches) :
    writeSpans i o = [⟨o.dst.toNat, o.k.toNat * ceilDiv o.n.toNat 8⟩] := by
  cases i
  case shscanV128X | shscanV256X => rfl
  all_goals exact absurd hi (by decide)

/-- The bitmaps of a command that may run have no byte in common. -/
theorem ready_bytesApart_separate {i : Instr} {s : State} (hi : i ∈ separateScans) (h : Ready i s) :
    BytesApart s.job false (bitmapLen i s.job.n) := by
  obtain ⟨hws, hapart⟩ := separateScan_layout hi s.op
  obtain ⟨-, -, -, hbm⟩ := (contractHeld_iff s i).mp h.contract
  have fits {t x : Nat} (ht : t < bitmapLen i s.job.n) (hx : x < s.job.k) :
      bitmapBase s.job x + bitmapLen i s.job.n ≤ addrSpace :=
    ready_fits h (r := ⟨bitmapBase s.job x, bitmapLen i s.job.n⟩)
      (hws.symm ▸ List.mem_map.mpr ⟨x, List.mem_range.mpr hx, rfl⟩) (Nat.zero_lt_of_lt ht)
  have below {x x' : Nat} (hlt : x < x') (hx' : x' < s.job.k) :
      bitmapBase s.job x + bitmapLen i s.job.n ≤ bitmapBase s.job x' := by
    have hle : (x + 1) * s.job.stride ≤ x' * s.job.stride := Nat.mul_le_mul_right _ hlt
    have hstride : bitmapLen i s.job.n ≤ s.job.stride :=
      (hapart hbm).resolve_left (by rw [show s.op.k.toNat = s.job.k from rfl]; omega)
    rw [Nat.succ_mul] at hle
    unfold bitmapBase
    omega
  intro t x t' x' ht hx ht' hx' he
  have h1 := fits ht hx
  have h2 := fits ht' hx'
  change (bitmapBase s.job x + t) % addrSpace = (bitmapBase s.job x' + t') % addrSpace at he
  rw [Nat.mod_eq_of_lt (by omega), Nat.mod_eq_of_lt (by omega)] at he
  rcases Nat.lt_trichotomy x x' with hlt | rfl | hlt
  · have := below hlt hx'
    omega
  · omega
  · have := below hlt hx
    omega

/-- The interleaved buffer of a command that may run has one byte for each octet and key. -/
theorem ready_bytesApart_interleaved {i : Instr} {s : State} (hi : i ∈ interleavedScans) (h : Ready i s) :
    BytesApart s.job true (ceilDiv s.job.n 8) := by
  intro t x t' x' ht hx ht' hx' he
  have next {t t' : Nat} (hlt : t < t') : t * s.job.k + s.job.k ≤ t' * s.job.k := by
    rw [← Nat.succ_mul]
    exact Nat.mul_le_mul_right _ hlt
  have hfits : s.job.dst + s.job.k * ceilDiv s.job.n 8 ≤ addrSpace :=
    ready_fits h (writeSpans_interleavedScan hi s.op ▸ List.mem_singleton_self _)
      (Nat.mul_pos (Nat.zero_lt_of_lt hx) (Nat.zero_lt_of_lt ht))
  rw [Nat.mul_comm] at hfits
  have h1 := next ht
  have h2 := next ht'
  change (s.job.dst + t * s.job.k + x) % addrSpace = (s.job.dst + t' * s.job.k + x') % addrSpace at he
  rw [Nat.mod_eq_of_lt (by omega), Nat.mod_eq_of_lt (by omega)] at he
  rcases Nat.lt_trichotomy t t' with hlt | rfl | hlt
  · have := next hlt
    omega
  · omega
  · have := next hlt
    omega

/-- The outside of the bitmaps a command writes, as the statements say it. -/
theorem Frame.sameOutsideAll {o : Latches} {len : Nat} {m m' : Memory} (h : Frame (bitmapSpans o len) m m')
    (hw : ∀ r ∈ bitmapSpans o len, r.wraps = false) :
    SameOutsideAll o.dst.toNat o.stride.toNat o.k.toNat len m m' := fun a ha hout => h a <| by
  rw [← Bool.not_eq_true, inSpans_iff]
  rintro ⟨r, hr, hra⟩
  have hin := (Span.has_of_not_wraps (hw r hr) ha).mp hra
  obtain ⟨x, hx, rfl⟩ := List.mem_map.mp hr
  exact hout x (List.mem_range.mp hx) hin

/-! ## Every shared scan -/

/-- The body of every strategy with separate bitmaps finds every key. -/
theorem bodyOf_separate_found {i : Instr} {j : Job} {e : Engine} (hi : i ∈ separateScans) (hw1 : 1 ≤ j.w) (hw : j.w ≤ 16)
    (hnw : 0 < j.nwork) (hm : e.mem.wf = true) (hs : StreamKept (writeSpans i j.op) j e.mem)
    (hap : BytesApart j false (bitmapLen i j.n)) {x : Nat} (hx : x < j.k) :
    KeyFound j false e.mem x (bodyOf i j e).engine.mem := by
  have hk0 : j.k ≠ 0 := Nat.ne_zero_of_lt hx
  have cover (len : Nat) (x : Nat) (hx : x < j.k) := covers_bitmapSpans j len hx
  cases i <;> unfold bodyOf
  case shscanV128 =>
    exact verticalBody_found hw1 hw (.inl rfl) hk0 (fun t x => covers_octet_separate (cover _)) hap hs hm hx
  case shscanV256 =>
    exact verticalBody_found hw1 hw (.inr rfl) hk0 (fun t x => covers_octet_separate (cover _)) hap hs hm hx
  case shscanT => exact threadedBody_found hw1 hw hnw (cover _) hap hs hm hx
  case shscanH4 | shscanH8 => exact horizontalBody_found hw1 hw (by decide) (cover _) hap hs hm hx
  all_goals exact absurd hi (by decide)

/-- The body of either interleaved strategy finds every key. -/
theorem bodyOf_interleaved_found {i : Instr} {j : Job} {e : Engine} (hi : i ∈ interleavedScans) (hw1 : 1 ≤ j.w) (hw : j.w ≤ 16)
    (hm : e.mem.wf = true) (hs : StreamKept (writeSpans i j.op) j e.mem) (hap : BytesApart j true (ceilDiv j.n 8)) {x : Nat}
    (hx : x < j.k) : KeyFound j true e.mem x (bodyOf i j e).engine.mem := by
  have hk0 : j.k ≠ 0 := Nat.ne_zero_of_lt hx
  have cover (t x : Nat) := covers_octet_interleaved (covers_singleton j.dst (j.k * ceilDiv j.n 8)) (t := t) (x := x)
  cases i <;> unfold bodyOf
  case shscanV128X => exact verticalBody_found hw1 hw (.inl rfl) hk0 cover hap hs hm hx
  case shscanV256X => exact verticalBody_found hw1 hw (.inr rfl) hk0 cover hap hs hm hx
  all_goals exact absurd hi (by decide)

/-- With a key, a shared scan that may run does not overwrite its stream. -/
theorem ready_shared_streamKept {i : Instr} {s : State} (hi : i.op = .shscan) (h : Ready i s) {x : Nat} (hx : x < s.job.k) :
    StreamKept (writeSpans i s.op) s.job s.eng.mem :=
  ready_streamKept h (.inr (.inr ⟨hi, Nat.ne_zero_of_lt hx⟩)) _

/-- A shared scan that may run ends normally, with no count (spec/45_shared_scanner.md R260). -/
theorem shscan_endedWith {i : Instr} (hi : i.op = .shscan) (s : State) :
    EndedWith s (s.conclude (bodyOf i s.job s.eng)) 0 := by
  obtain ⟨f, hbody⟩ := shscanBody_done hi s.job s.eng
  rw [hbody]
  exact endedWith_conclude_done s f 0

/-- Settles O36: the body of every family finds every key in its bitmap, and writes the bitmaps only. -/
theorem sharedScanWritesEveryBitmap : Obligations.SharedScanWritesEveryBitmap := by
  intro i hi s h
  obtain ⟨hw1, hw, -, -⟩ := startStop_none h.starts
  have hop := op_of_mem_separateScans hi
  have hws := (separateScan_layout hi s.op).1
  have hframe := bodyOf_frame (i := i) (j := s.job) s.eng hw
  rw [show writeSpans i s.job.op = _ from hws] at hframe
  refine ⟨_, exec_ready h, shscan_endedWith hop s, fun k x hk hx => ?_, ?_⟩ <;> rw [State.conclude_eng]
  · exact bodyOf_separate_found (j := s.job) hi hw1 hw (Nat.succ_pos _) h.canonical (ready_shared_streamKept hop h hk)
      (ready_bytesApart_separate hi h) hk x hx
  · exact hframe.sameOutsideAll (hws ▸ ready_not_wraps h)

/-- Settles O37: the same in the one buffer, whose bytes are those of the octets and keys. -/
theorem interleavedScanWritesEveryBit : Obligations.InterleavedScanWritesEveryBit := by
  intro i hi s h
  obtain ⟨hw1, hw, -, -⟩ := startStop_none h.starts
  have hop := op_of_mem_interleavedScans hi
  refine ⟨_, exec_ready h, shscan_endedWith hop s, fun k x hk hx => ?_,
    ready_sameOutside h (writeSpans_interleavedScan hi s.op)⟩
  rw [State.conclude_eng]
  exact bodyOf_interleaved_found (j := s.job) hi hw1 hw h.canonical (ready_shared_streamKept hop h hk)
    (ready_bytesApart_interleaved hi h) hk x hx

/-! ## Strategies compared -/

theorem not_mem_interleavedScans {i : Instr} (hi : i ∈ separateScans) : i ∉ interleavedScans := by
  revert i
  decide

/-- Settles O38: the bits of key `k` and of the scan for that key both say which values equal the key. -/
theorem sharedScanEqualsSingleScans : Obligations.SharedScanEqualsSingleScans := by
  intro i hi j hj s s' k h h' hk hmem hw hn hsrc hkey
  obtain ⟨t', ht', -, hscan, -⟩ := scanWritesBitmapAndCount j hj s' h'
  rw [hmem, hw, hn, hsrc, hkey] at hscan
  rcases List.mem_append.mp hi with hi | hi
  · obtain ⟨t, ht, -, hbits, -⟩ := sharedScanWritesEveryBitmap i hi s h
    exact ⟨t, t', ht, ht', fun _ x hx => (hbits k x hk hx).trans (hscan x hx).symm,
      fun hi' => absurd hi' (not_mem_interleavedScans hi)⟩
  · obtain ⟨t, ht, -, hbits, -⟩ := interleavedScanWritesEveryBit i hi s h
    exact ⟨t, t', ht, ht', fun hi' => absurd hi (not_mem_interleavedScans hi'),
      fun _ x hx => (hbits k x hk hx).trans (hscan x hx).symm⟩

/-- The bit of key `k` and value `x` in its own bitmap (spec/45_shared_scanner.md R263). -/
def separateBit (o : Latches) (m : Memory) (k x : Nat) : Bool := bitmapBit m (o.dst.toNat + k * o.stride.toNat) x

/-- The bit of key `k` and value `x` in the interleaved buffer (spec/45_shared_scanner.md R263). -/
def bufferBit (o : Latches) (m : Memory) (k x : Nat) : Bool := interleavedBit m o.dst.toNat o.k.toNat k x

/-- A shared scan whose bits, read by `bit`, say which values equal which keys (spec/45_shared_scanner.md R261). -/
def FindsEveryKey (i : Instr) (s : State) (bit : Memory → Nat → Nat → Bool) : Prop :=
  ∃ t, exec i s = .next t ∧ ∀ k x, k < s.op.k.toNat → x < s.op.n.toNat →
    bit t.eng.mem k x = decide (fieldAt s.eng.mem s.op.src.toNat s.op.w.toNat x = keyAt s.eng.mem s.op.keys.toNat k)

theorem separate_findsEveryKey {i : Instr} {s : State} (hi : i ∈ separateScans) (h : Ready i s) :
    FindsEveryKey i s (separateBit s.op) := by
  obtain ⟨t, ht, -, hbits, -⟩ := sharedScanWritesEveryBitmap i hi s h
  exact ⟨t, ht, hbits⟩

theorem interleaved_findsEveryKey {i : Instr} {s : State} (hi : i ∈ interleavedScans) (h : Ready i s) :
    FindsEveryKey i s (bufferBit s.op) := by
  obtain ⟨t, ht, -, hbits, -⟩ := interleavedScanWritesEveryBit i hi s h
  exact ⟨t, ht, hbits⟩

/-- Two shared scans of one state write the same bit for every key and value, each where it is read. -/
theorem FindsEveryKey.agree {i i' : Instr} {s : State} {bit bit' : Memory → Nat → Nat → Bool} (h : FindsEveryKey i s bit)
    (h' : FindsEveryKey i' s bit') : ∃ t t', exec i s = .next t ∧ exec i' s = .next t' ∧
      ∀ k x, k < s.op.k.toNat → x < s.op.n.toNat → bit t.eng.mem k x = bit' t'.eng.mem k x := by
  obtain ⟨t, ht, hf⟩ := h
  obtain ⟨t', ht', hf'⟩ := h'
  exact ⟨t, t', ht, ht', fun k x hk hx => (hf k x hk hx).trans (hf' k x hk hx).symm⟩

/-- Settles O39: in either layout the bit of a key and a value says whether they are equal. -/
theorem sharedScanStrategiesAgree : Obligations.SharedScanStrategiesAgree :=
  ⟨fun _ hi _ hi' _ h h' => (separate_findsEveryKey hi h).agree (separate_findsEveryKey hi' h'),
    fun _ hi _ hi' _ h h' => (interleaved_findsEveryKey hi h).agree (interleaved_findsEveryKey hi' h'),
    fun _ hi _ hi' _ h h' => (separate_findsEveryKey hi h).agree (interleaved_findsEveryKey hi' h')⟩

end Sys2Proof.Machine

/-! PROOFS. The error stops (spec/60_exceptions.md): those of the start-time checks, and the one of a run. -/

namespace Sys2Proof.Machine

/-! ## A run that ends with an error -/

/-- The packer stops at an entry that it reads (spec/60_exceptions.md R307). -/
theorem packBody_stop_lt {i : Instr} {j : Job} {e f : Engine} {k : Nat} (h : packBody i j e = .stop f k) : k < j.n := by
  rcases packEntries_inv (j := j) (e := { e with idx := 0, bpe := ⟨0, 64, 0⟩ }) (fun _ => True) trivial
    (fun _ _ _ _ => trivial) j.n with ⟨g, hg, -⟩ | ⟨x, g, hg, hx, -⟩ <;> rw [packBody, hg] at h
  · exact absurd h nofun
  · cases h
    exact hx

/-- Only the bodies of PACK stop (spec/60_exceptions.md R300). -/
theorem bodyOf_stop {i : Instr} {j : Job} {e f : Engine} {k : Nat} (h : bodyOf i j e = .stop f k) :
    i.op = .pack ∧ k < j.n := by
  have shared (hi : i.op = .shscan) : False := by
    obtain ⟨g, hg⟩ := shscanBody_done hi j e
    cases hg.symm.trans h
  cases i with
  | pack128 | pack256 => exact ⟨rfl, packBody_stop_lt h⟩
  | shscanV128 | shscanV256 | shscanV128X | shscanV256X | shscanH4 | shscanH8 | shscanT => exact (shared rfl).elim
  | maskgen128 | maskgen256 | decodeS | decodeV128 | decodeV256 | decodeV128M | decodeV128A | decodeV128U | decodeV256V
  | scanS | scanV128 | scanV256 | scanV128I | scanV256I | scanV128U => exact absurd h nofun

/-- Outside its contract, too, only a PACK stops, at an index of its column (notes/assumptions/6.md). -/
theorem outOfContract_stop {i : Instr} {s : State} {f : Engine} {k : Nat} (h : s.outOfContract i = .stop f k) :
    i.op = .pack ∧ k < s.op.n.toNat := by
  rcases outOfContract_cases i s with ⟨n, hn, -⟩ | ⟨x, hx, hi, hs⟩
  · exact absurd (hn.symm.trans h) nofun
  · cases hs.symm.trans h
    exact ⟨hi, hx⟩

/-- Where only a PACK stops, at an index of its column, an error that is left is ERR_VALUE with such an index. -/
theorem State.conclude_err {i : Instr} {s : State} {r : RunEnd}
    (hr : ∀ f k, r = .stop f k → i.op = .pack ∧ k < s.op.n.toNat) (he : (s.conclude r).errcode ≠ .none) :
    i.op = .pack ∧ (s.conclude r).errcode = .value ∧ (s.conclude r).errinfo.toNat < s.op.n.toNat := by
  cases r with
  | done f n => exact absurd rfl he
  | stop f k =>
    obtain ⟨hi, hk⟩ := hr f k rfl
    have hinfo : (BitVec.ofNat 64 k).toNat ≤ k := (BitVec.toNat_ofNat k 64).trans_le (Nat.mod_le _ _)
    exact ⟨hi, rfl, hinfo.trans_lt hk⟩

/-- Settles O47: past the start-time checks the error is the stop of a run, and only a PACK stops. -/
theorem onlyPackErrsDuringItsRun : Obligations.OnlyPackErrsDuringItsRun := by
  intro i s t h hs he
  rcases exec_cases h with ⟨x, hx, -⟩ | ⟨-, -, rfl⟩ | ⟨-, -, rfl⟩
  · cases hs.symm.trans hx
  · exact State.conclude_err (fun _ _ => outOfContract_stop) he
  · exact State.conclude_err (fun _ _ => bodyOf_stop (j := s.job)) he

/-! ## START -/

theorem start_of_reserved {s : State} (hd : decode s.cmd = none) : s.start = s.latch.raise (opcodeStop s.cmd) := by
  simp only [State.start, State.latch_op, show s.sample.cmd = s.cmd from rfl, hd]

/-- Settles O8: such a START latches and stops. -/
theorem startOnReservedWordStops : Obligations.StartOnReservedWordStops := by
  intro s v e rest hh hb hv hd
  refine ⟨(State.latch { s with host := rest }).raise (opcodeStop s.cmd), ?_, rfl, rfl, rfl, rfl, rfl,
    ⟨rfl, rfl, rfl, rfl, rfl, rfl, rfl, rfl, rfl⟩⟩
  rw [step_of_ctrl hb hh, writeCtrl_of_start _ hv, start_of_reserved (s := { s with host := rest }) hd]

/-! ## The start-time checks of a command -/

theorem State.raise_stoppedWith (s : State) (x : Stop) : StoppedWith s (s.raise x) x.code x.info :=
  ⟨rfl, rfl, rfl, rfl, s.raise_operandsKept x⟩

theorem exec_of_startStop {i : Instr} {s : State} {x : Stop} (h : startStop i s.op = some x) :
    exec i s = .next (s.raise x) := by
  rw [exec_eq_command, command, h]

/-- Settles O13: the command is the error stop, which leaves the engine. -/
theorem startTimeErrorTouchesNothing : Obligations.StartTimeErrorTouchesNothing :=
  fun _ s x h => ⟨s.raise x, exec_of_startStop h, s.raise_stoppedWith x, rfl⟩

theorem startStop_of_width (i : Instr) {o : Latches} (h : o.w.toNat < 1 ∨ 16 < o.w.toNat) :
    startStop i o = some ⟨.width, o.w.setWidth 64⟩ := if_pos h

theorem startStop_of_count {i : Instr} {o : Latches} (hi : i.op = .shscan) (h1 : 1 ≤ o.w.toNat) (h16 : o.w.toNat ≤ 16)
    (hk : Config.kMax < o.k.toNat) : startStop i o = some ⟨.count, o.k.setWidth 64⟩ := by
  rw [startStop, if_neg (by omega), if_pos ⟨hi, hk⟩]

/-- Settles O10: the width is checked first, in every command. -/
theorem widthOutOfRangeStopsEveryCommand : Obligations.WidthOutOfRangeStopsEveryCommand := by
  intro i s h
  have hstop := startStop_of_width i h
  exact ⟨hstop, startTimeErrorTouchesNothing i s _ hstop⟩

/-- Settles O11: past the width, the count is checked next. -/
theorem countAboveLimitStopsSharedScan : Obligations.CountAboveLimitStopsSharedScan := by
  intro i s hi h1 h16 hk
  have hstop := startStop_of_count hi h1 h16 hk
  exact ⟨hstop, startTimeErrorTouchesNothing i s _ hstop⟩

end Sys2Proof.Machine

/-! PROOFS. The reset event and the end of every command (spec/70_reset_and_hazards.md R340, R341, R353). -/

namespace Sys2Proof.Machine

/-! ## The reset event -/

theorem busyWrites_of_not_busy {s : State} (h : s.busy = false) : s.busyWrites = [] := by simp [State.busyWrites, h]

@[simp] theorem State.resetEvent_mem (s : State) : s.resetEvent.eng.mem = fillAll s.draw s.busyWrites s.eng.mem := rfl

theorem State.resetEvent_frame (s : State) : Frame s.busyWrites s.eng.mem s.resetEvent.eng.mem := by
  rw [resetEvent_mem]
  exact Frame.fillAll s.draw s.eng.mem

theorem State.resetEvent_mem_of_not_busy {s : State} (h : s.busy = false) : s.resetEvent.eng.mem = s.eng.mem := by
  rw [resetEvent_mem, busyWrites_of_not_busy h, fillAll]

/-- STATUS after the event is that of the reset state, whatever ran before it. -/
theorem State.resetEvent_status (s : State) : s.resetEvent.readReg 0x08 = 0 :=
  calc s.resetEvent.readReg 0x08
    _ = State.reset.status := rfl
    _ = 0 := by decide

/-- Settles O20: the host's turn is the reset event, and its memory is the old one with the cut command's write footprint
filled. -/
theorem resetEventLeavesResetValues : Obligations.ResetEventLeavesResetValues := by
  intro s e rest hb hh
  let r : State := { s with host := rest }
  exact ⟨r.resetEvent, step_of_host_turn hb hh, rfl, r.resetEvent_status, rfl, rfl, rfl, rfl, rfl, rfl, rfl, rfl, rfl,
    rfl, rfl, fun a _ ha => r.resetEvent_frame a ha, fun hn => State.resetEvent_mem_of_not_busy (s := r) hn⟩

/-! ## The end of a command -/

@[simp] theorem State.conclude_seq (s : State) (r : RunEnd) : (s.conclude r).seq = .fin := by cases r <;> rfl

/-- Settles O42: a start-time check, a run outside the contract and a body each lead to FIN. -/
theorem everyCommandEnds : Obligations.EveryCommandEnds := by
  intro i s
  rw [exec_eq_command]
  rcases command_cases i s (bodyOf i) with ⟨x, -, h⟩ | ⟨-, -, h⟩ | ⟨-, -, h⟩
  · exact ⟨s.raise x, h, rfl⟩
  · exact ⟨_, h, s.conclude_seq _⟩
  · exact ⟨_, h, s.conclude_seq _⟩

end Sys2Proof.Machine

/-! PROOFS. The command word set to be fetched (notes/assumptions/3.md). -/

namespace Sys2Proof.Machine

@[simp] theorem State.withFetchWord_op_cmd (s : State) (w : BitVec 32) : (s.withFetchWord 32 w.toNat).op.cmd = w :=
  calc (s.withFetchWord 32 w.toNat).op.cmd
    _ = BitVec.ofNat 32 (w.toNat % 2 ^ 32) := rfl
    _ = w := by rw [Nat.mod_eq_of_lt w.isLt, BitVec.ofNat_toNat, BitVec.setWidth_eq]

/-- Settles O6: the block moves next, and the word latched is the command's own. -/
theorem fetchedWordRunsNext : Obligations.FetchedWordRunsNext := fun s i =>
  blockTurnRunsTheLatchedCommand _ i (withFetchWord_blockTurn s 32 _) (by rw [State.withFetchWord_op_cmd, decode_encode])

end Sys2Proof.Machine
